-- ==== Sys2Proof/Word.lean ====
section
/-! DEFINITION. The word types of the unit (00_scope.md R11, R12, R13). -/

namespace Sys2Proof

/-- A byte is 8 bits (R13). -/
abbrev Byte := BitVec 8

/-- A block operand: 128 bits, byte `i` in bits `[8i+7 : 8i]` (R93, R104). -/
abbrev Block := BitVec 128

/-- A command word (R95). -/
abbrev CmdWord := BitVec 32

/-- The scalar operand of a command (R11, R95). -/
abbrev Arg := BitVec 16

end Sys2Proof
end

