-- ==== Sys2Proof/Config.lean ====
section
/-! DEFINITION. The constants of R8, the parameters of R10, the byte an unwritten card byte reads as,
and the two uninterpreted functions of the record codec (R197). -/

namespace Sys2Proof.Config

/-- Bytes in one block (R8). -/
@[simp] def blockSize : Nat := 16
/-- Blocks in one sector (R8). -/
@[simp] def blocksPerSector : Nat := 4
/-- Sectors on the medium (R8). -/
@[simp] def numSectors : Nat := 16
/-- Blocks on the medium (R8). -/
@[simp] def numBlocks : Nat := numSectors * blocksPerSector
/-- Sub-block index of the trailer (R8). -/
@[simp] def trailerSub : Arg := 3
/-- Linear index where every walk starts (R8). -/
@[simp] def firstDataBlock : BitVec 8 := 4
/-- Type byte of the frame, the NDEF-message TLV (R8). -/
@[simp] def tlvTypeNdef : Byte := 0x03
/-- Second header byte of the long form (R8). -/
@[simp] def tlvLongMarker : Byte := 0xFF
/-- Terminator byte (R8). -/
@[simp] def tlvTerminator : Byte := 0xFE
/-- Padding byte before the frame and after the terminator (R8). -/
@[simp] def tlvPad : Byte := 0x00
/-- Bytes of the short header proper (R8). -/
@[simp] def shortTlvSize : Nat := 2
/-- Bytes of the long header (R8). -/
@[simp] def longTlvSize : Nat := 4
/-- Zero bytes emitted before a short header (R8). -/
@[simp] def shortPad : Nat := 2
/-- Smallest payload length that takes the long form (R8; 90_conflicts.md C1). -/
@[simp] def longThreshold : Nat := 0xFF
/-- What the sizer adds to a short length (R8, R140). -/
@[simp] def shortAddend : Nat := shortTlvSize + 1
/-- What the sizer adds to a long length (R8, R140, R141). -/
@[simp] def longAddend : Nat := longTlvSize + 1
/-- Largest payload length the two length bytes can say (R11, R185). -/
@[simp] def maxPayload : Nat := 65535

/-- What a byte of the card reads as that nothing has written: DESIGN CHOICE, unsafe for a run from
reset; any other card is a state whose medium lists its bytes (R68; log 2). -/
@[simp] def blankByte : Byte := 0x00

end Sys2Proof.Config

namespace Sys2Proof

/-- The key type handed to `authenticateSector`. `B` is the only type, key-A being a non-goal (R6, R10, R61). -/
inductive KeyType where
  | keyB
deriving DecidableEq, Repr

/-- The opaque card handle: never inspected, only passed on to the reader (R10, R36b; log 7). -/
structure CardHandle where
  uid : Nat
deriving DecidableEq, Repr

/-- The parameters of R10. They do not change while the unit runs (R243f; log 6, log 7). -/
structure Params where
  /-- `LAST_BLOCK`: the last linear block index a walk may visit. -/
  lastBlock : BitVec 8
  /-- `DEFAULT_KEY`: the key handed to `authenticateSector`. -/
  defaultKey : List Byte
  /-- `KEY_TYPE`: the key type handed to `authenticateSector`. -/
  keyType : KeyType
deriving DecidableEq, Repr

/-- The default values of R10. -/
def Params.default : Params where
  lastBlock := 63
  defaultKey := [0xFF, 0xFF, 0xFF, 0xFF, 0xFF, 0xFF]
  keyType := .keyB

/-- The range R10 gives `LAST_BLOCK`. -/
abbrev Params.Legal (p : Params) : Prop :=
  4 ≤ p.lastBlock.toNat ∧ p.lastBlock.toNat ≤ 63

/-- What the record codec decodes to: a record "exposing a URI field" (R197). -/
structure UriRecord where
  uri : String
deriving DecidableEq, Repr

namespace Config

/-- The record codec's encoder: an uninterpreted function that may fail (R197; U14; log 15). -/
opaque encodeUriRecord : String → Option (List Byte)

/-- The record codec's decoder: an uninterpreted function that may fail (R197; U14; log 15). -/
opaque decodeMessage : List Byte → Option UriRecord

end Config

end Sys2Proof
end

