-- ==== Sys2Proof/Syntax.lean ====
section
/-! DEFINITION. The fifteen commands of the unit (30_encoding.md R96, R97), one constructor per row of
the opcode table. A block operand `BLK` is a field of the three commands for which it is meaningful (R93). -/

namespace Sys2Proof

/-- The commands of TSFU-1 (R96). -/
inductive Instr where
  /-- `LOCATE blockIndex` (R110) -/
  | locate (blockIndex : Arg)
  /-- `ISTRL subBlock` (R111) -/
  | istrl (subBlock : Arg)
  /-- `ISSTART subBlock` (R112) -/
  | isstart (subBlock : Arg)
  /-- `FFS [block]` (R121) -/
  | ffs (blk : Block)
  /-- `DECHDR offset, [block]` (R122) -/
  | dechdr (offset : BitVec 4) (blk : Block)
  /-- `ENCHDR payloadLength` (R123) -/
  | enchdr (payloadLength : Arg)
  /-- `FTERM [block]` (R124) -/
  | fterm (blk : Block)
  /-- `BUFSZ payloadLength` (R140) -/
  | bufsz (payloadLength : Arg)
  /-- `WINIT mode, nblk` (R151) -/
  | winit (mode : BitVec 2) (nblk : BitVec 13)
  /-- `WNEXT` (R152) -/
  | wnext
  /-- `WAUTH ok` (R153) -/
  | wauth (ok : Bool)
  /-- `WACK` (R154) -/
  | wack
  /-- `WSTOP` (R155) -/
  | wstop
  /-- `WFAIL kind` (R156) -/
  | wfail (code : BitVec 3)
  /-- `WSTAT` (R157) -/
  | wstat
deriving DecidableEq, Repr

end Sys2Proof
end

