-- ==== Sys2Proof/WellFormed.lean ====
section
/-! DEFINITION. Which commands are legal: the two value constraints that R97 and the opcode table put on
an operand beyond the bits that must be zero. An ill-formed command is answered `IllegalCommand` (R100). -/

namespace Sys2Proof

/-- `WINIT` takes `MODE` 0, 1 or 2 (R97, R151). -/
def legalMode (mode : BitVec 2) : Bool := mode != 3

/-- `WFAIL` takes `CODE` 1 to 6 (R97, R156). -/
def legalCode (code : BitVec 3) : Bool := code != 0 && code != 7

/-- The operand constraints of R97. -/
def Instr.wellFormed : Instr → Bool
  | .locate _ => true
  | .istrl _ => true
  | .isstart _ => true
  | .ffs _ => true
  | .dechdr _ _ => true
  | .enchdr _ => true
  | .fterm _ => true
  | .bufsz _ => true
  | .winit mode _ => legalMode mode
  | .wnext => true
  | .wauth _ => true
  | .wack => true
  | .wstop => true
  | .wfail code => legalCode code
  | .wstat => true

end Sys2Proof
end

