-- ==== Sys2Proof/Decode.lean ====
section
/-! DEFINITION. From a command `(CW, BLK)` to an `Instr`, and back (30_encoding.md Part B, R93 to R101).
The decoder follows the opcode table's match and mask, row by row; the two value constraints that the table
gives beside a mask (`WINIT` with `MODE = 3`, `WFAIL` with `CODE` 0 or 7) are tested by the command itself,
where its pseudocode tests them (R151, R156; log 10). Both ways end in `IllegalCommand`. -/

namespace Sys2Proof

/-- Why a command word is no command (R100). -/
inductive DecodeError where
  /-- `OP = 0x0`: the reserved opcode -/
  | reservedOpcode
  /-- `Z != 0`: a reserved bit is set -/
  | reservedBits
  /-- a bit of `ARG` that must be 0 is set -/
  | illegalArg
deriving DecidableEq, Repr

/-- `OP`, bits [31:28] (R95). -/
def opField (cw : CmdWord) : BitVec 4 := cw.extractLsb' 28 4
/-- `Z`, bits [27:16] (R95). -/
def zField (cw : CmdWord) : BitVec 12 := cw.extractLsb' 16 12
/-- `ARG`, bits [15:0] (R95). -/
def argField (cw : CmdWord) : Arg := cw.extractLsb' 0 16

/-- A command without scalar operand: `ARG` must be 0 (R97). -/
def noArg (arg : Arg) (i : Instr) : Except DecodeError Instr :=
  if arg = 0 then .ok i else .error .illegalArg

/-- `DECHDR`: `ARG[15:4]` must be 0 (R97: offset 0 to 15). -/
def decodeDechdr (arg : Arg) (blk : Block) : Except DecodeError Instr :=
  if arg.extractLsb' 4 12 = 0 then .ok (.dechdr (arg.extractLsb' 0 4) blk) else .error .illegalArg

/-- `WINIT`: `ARG[15:14] = MODE`, `ARG[13]` must be 0, `ARG[12:0] = NBLK` (R97). -/
def decodeWinit (arg : Arg) : Except DecodeError Instr :=
  if arg.extractLsb' 13 1 = 0 then .ok (.winit (arg.extractLsb' 14 2) (arg.extractLsb' 0 13))
  else .error .illegalArg

/-- `WAUTH`: `ARG[0] = OK`, `ARG[15:1]` must be 0 (R97). -/
def decodeWauth (arg : Arg) : Except DecodeError Instr :=
  if arg.extractLsb' 1 15 = 0 then .ok (.wauth (arg.getLsbD 0)) else .error .illegalArg

/-- `WFAIL`: `ARG[2:0] = CODE`, `ARG[15:3]` must be 0 (R97). -/
def decodeWfail (arg : Arg) : Except DecodeError Instr :=
  if arg.extractLsb' 3 13 = 0 then .ok (.wfail (arg.extractLsb' 0 3)) else .error .illegalArg

/-- The opcode map (R96) over the operands of R97. -/
def decodeOp (op : BitVec 4) (arg : Arg) (blk : Block) : Except DecodeError Instr :=
  match op.toNat with
  | 0x1 => .ok (.locate arg)
  | 0x2 => .ok (.istrl arg)
  | 0x3 => .ok (.isstart arg)
  | 0x4 => noArg arg (.ffs blk)
  | 0x5 => decodeDechdr arg blk
  | 0x6 => .ok (.enchdr arg)
  | 0x7 => noArg arg (.fterm blk)
  | 0x8 => .ok (.bufsz arg)
  | 0x9 => decodeWinit arg
  | 0xA => noArg arg .wnext
  | 0xB => decodeWauth arg
  | 0xC => noArg arg .wack
  | 0xD => noArg arg .wstop
  | 0xE => decodeWfail arg
  | 0xF => noArg arg .wstat
  | _ => .error .reservedOpcode

/-- Decode a command: total on every word and block, rejecting by name (R93, R95 to R97, R100). -/
def decode (cw : CmdWord) (blk : Block) : Except DecodeError Instr :=
  if opField cw = 0 then .error .reservedOpcode
  else if zField cw = 0 then decodeOp (opField cw) (argField cw) blk
  else .error .reservedBits

/-- The opcode of a command (R96). -/
def Instr.opcode : Instr → BitVec 4
  | .locate _ => 0x1
  | .istrl _ => 0x2
  | .isstart _ => 0x3
  | .ffs _ => 0x4
  | .dechdr _ _ => 0x5
  | .enchdr _ => 0x6
  | .fterm _ => 0x7
  | .bufsz _ => 0x8
  | .winit _ _ => 0x9
  | .wnext => 0xA
  | .wauth _ => 0xB
  | .wack => 0xC
  | .wstop => 0xD
  | .wfail _ => 0xE
  | .wstat => 0xF

/-- `ARG` of a command (R97). -/
def Instr.arg : Instr → Arg
  | .locate blockIndex => blockIndex
  | .istrl subBlock => subBlock
  | .isstart subBlock => subBlock
  | .ffs _ => 0
  | .dechdr offset _ => 0#12 ++ offset
  | .enchdr payloadLength => payloadLength
  | .fterm _ => 0
  | .bufsz payloadLength => payloadLength
  | .winit mode nblk => mode ++ 0#1 ++ nblk
  | .wnext => 0
  | .wauth ok => 0#15 ++ BitVec.ofBool ok
  | .wack => 0
  | .wstop => 0
  | .wfail code => 0#13 ++ code
  | .wstat => 0

/-- `BLK` of a command: the block operand where it is meaningful, 0 where it is ignored (R93). -/
def Instr.blkOperand : Instr → Block
  | .ffs blk => blk
  | .dechdr _ blk => blk
  | .fterm blk => blk
  | _ => 0

/-- Whether `BLK` is meaningful for the command (R93). -/
def Instr.usesBlk : Instr → Bool
  | .ffs _ => true
  | .dechdr _ _ => true
  | .fterm _ => true
  | _ => false

/-- The command word of a command: `{OP, Z, ARG}` with `Z = 0` (R95). -/
def Instr.word (i : Instr) : CmdWord := i.opcode ++ 0#12 ++ i.arg

/-- The command `(CW, BLK)` that stands for `i`. -/
def encode (i : Instr) : CmdWord × Block := (i.word, i.blkOperand)

/-- The instruction the decoder reads from an opcode-table word: `CW` is the low 32 bits and `BLK` what
stands above them (R93: a command is the pair); every bit above `nbits` is 0. -/
def decodeTableWord (nbits w : Nat) : Option Instr :=
  match decode (BitVec.ofNat 32 (w % 2 ^ nbits)) (BitVec.ofNat 128 (w % 2 ^ nbits / 2 ^ 32)) with
  | .ok i => some i
  | .error _ => none

end Sys2Proof
end

