-- ==== Sys2Proof/Machine/State.lean ====
section
/-! DEFINITION. The state of the machine as plain data: the unit's record S (10_state.md R22), its ports,
the parameters (R10), the medium (R50), the sequencer at work (44_walker_sequences.md), the reader's answers
still to come (R68), and what has come out so far. -/

namespace Sys2Proof.Machine

/-- `PHASE`, the four states of the walk in the order of their codes 0 to 3 (R23). -/
inductive Phase where
  | authenticating
  | transferring
  | done
  | failed
deriving DecidableEq, Repr

/-- The record S: the whole architectural state of the unit (R22). -/
structure UnitState where
  /-- `PHASE`: state of the walk (R23) -/
  phase : Phase
  /-- `PEND`: a yielded action awaits its acknowledgement (R24) -/
  pend : Bool
  /-- `MODE`: 0 READ, 1 WRITE, 2 FORMAT (R25) -/
  mode : BitVec 2
  /-- `BIDX`: current linear block index (R26) -/
  bidx : BitVec 8
  /-- `BCNT`: logical byte-progress counter (R27) -/
  bcnt : BitVec 17
  /-- `LIMIT`: byte budget of a READ or WRITE walk (R28) -/
  limit : BitVec 17
  /-- `ERR`: error kind latched when the walk failed (R29) -/
  err : BitVec 3
  /-- `ERRBLK`: block index latched with `ERR` (R30) -/
  errblk : BitVec 8
deriving DecidableEq, Repr

/-- The unit after its reset (R38, R241): every field is specified. -/
def UnitState.reset : UnitState where
  phase := .done
  pend := false
  mode := 0
  bidx := 0
  bcnt := 0
  limit := 0
  err := 0
  errblk := 0

/-- A response `rsp(ST, V0, V1)` (R98). -/
structure Response where
  st : BitVec 4
  v0 : BitVec 32
  v1 : BitVec 32
deriving DecidableEq, Repr

/-- The medium: (address, byte) pairs, byte `o` of block `b` at address `16 b + o` (R50, R52). `Memory.wf`
says the canonical form. -/
abbrev Memory := List Host.Cell

/-- What reaches the machine from the reader's side: the answers of the primitives, in the order the
primitives are called, and changes that something else makes to the card (R68, R253; log 3, log 5). -/
inductive ReaderInput where
  /-- the primitive succeeds (R58 to R60) -/
  | grant
  /-- the primitive fails; a `MemWrite` that fails leaves the 16 bytes `left` in its block, any bytes (R56, U4) -/
  | deny (left : Block)
  /-- block `blk` of the card now holds `b` (another card, or a writer outside: R253, U11) -/
  | cardSets (blk : BitVec 6) (b : Block)
deriving DecidableEq, Repr

/-- A call of a reader primitive together with its answer (R58 to R60, R189). -/
inductive ReaderCall where
  /-- `authenticateSector(handle, blk, keyType, key)`, answered `ok` -/
  | auth (handle : CardHandle) (blk : BitVec 8) (keyType : KeyType) (key : List Byte) (ok : Bool)
  /-- `readBlock(blk)`, answered with the 16 bytes or with none -/
  | read (blk : BitVec 8) (answer : Option Block)
  /-- `writeBlock(blk, data)`, answered `ok` -/
  | write (blk : BitVec 8) (data : Block) (ok : Bool)
deriving DecidableEq, Repr

/-- What an operation ends with: exactly one of success with its result or one error (R180). -/
inductive OpResult where
  /-- `readFrame` returned these bytes (R184) -/
  | bytes (data : List Byte)
  /-- `readUri` returned this string (R194) -/
  | uri (text : String)
  /-- `writeFrame`, `writeUri`, `formatCard` or `format` succeeded (R185, R186, R195, R196) -/
  | done
  /-- the operation failed with the error of code `kind` (R211), at this block for the kinds that carry one -/
  | failed (kind : BitVec 4) (blk : Option (BitVec 8))
deriving DecidableEq, Repr

/-- The per-block action of a walk and its transient buffers (R36c, R181, R183, R185, R186). -/
inductive Job where
  /-- read: offset of the payload, the buffer assembled so far, and whether `readUri` asked for it -/
  | read (start : Nat) (buf : List Byte) (uri : Bool)
  /-- write: the chunks of the frame -/
  | write (chunks : List Block)
  /-- format -/
  | format
deriving DecidableEq, Repr

/-- A walk the sequencer is driving: the card handle and what it does at a data block (R181). -/
structure Walk where
  handle : CardHandle
  job : Job
deriving DecidableEq, Repr

/-- Where the sequencer stands: what it does at its next step (R181 to R186). -/
inductive Seq where
  /-- no operation is in progress -/
  | idle
  /-- read-setup: call `Auth(h, 4)` (R182) -/
  | setupAuth (h : CardHandle) (uri : Bool)
  /-- read-setup: call `MemRead(4, 16)` (R182) -/
  | setupRead (h : CardHandle) (uri : Bool)
  /-- read-setup: issue `FFS b` (R182) -/
  | setupFfs (h : CardHandle) (uri : Bool) (b : Block)
  /-- read-setup: issue `DECHDR o, b` (R182) -/
  | setupDechdr (h : CardHandle) (uri : Bool) (b : Block) (o : BitVec 4)
  /-- read: issue `BUFSZ n` (R183) -/
  | sizing (h : CardHandle) (uri : Bool) (n : Arg) (start : Nat)
  /-- write: issue `ENCHDR len(P)` (R185) -/
  | encoding (h : CardHandle) (payload : List Byte)
  /-- walk: issue `WINIT mode, nblk` (R181) -/
  | walkInit (w : Walk) (nblk : BitVec 13)
  /-- walk: issue `WNEXT` (R181) -/
  | walkNext (w : Walk)
  /-- walk: call `Auth(h, blk)` for an `A` yield (R181) -/
  | walkAuth (w : Walk) (blk : BitVec 8)
  /-- walk: issue `WAUTH ok` (R181) -/
  | walkTell (w : Walk) (blk : BitVec 8) (ok : Bool)
  /-- walk: transfer the data block `blk` at logical offset `off` (R181, R183, R185, R186) -/
  | walkData (w : Walk) (blk : BitVec 8) (off : BitVec 17)
  /-- read: issue `FTERM b` (R183) -/
  | walkTerm (w : Walk) (b : Block)
  /-- walk: issue `WACK` (R181) -/
  | walkAck (w : Walk)
  /-- walk: issue `WSTOP` (R181) -/
  | walkStop (w : Walk)
  /-- walk: issue `WFAIL kind`, then fail with `kind(blk)` (R181) -/
  | walkFail (w : Walk) (kind : BitVec 3) (blk : BitVec 8)
deriving DecidableEq, Repr

/-- What the host asks for: a command of the unit, a reset, a pseudo-operation of R103 on the reader, or an
operation of the sequencer (R185, R186, R194 to R196). -/
inductive HostAct where
  /-- the command `(CW, BLK)` (R93) -/
  | command (cw : CmdWord) (blk : Block)
  /-- assert `RST` (R240) -/
  | reset
  /-- `AUTH blk` (R103) -/
  | auth (h : CardHandle) (blk : BitVec 8)
  /-- `READ blk` (R103) -/
  | read (blk : BitVec 8)
  /-- `WRITE blk, bytes` (R103) -/
  | write (blk : BitVec 8) (data : Block)
  /-- `readFrame` (R182 to R184) -/
  | readFrame (h : CardHandle)
  /-- `writeFrame` (R185) -/
  | writeFrame (h : CardHandle) (payload : List Byte)
  /-- `formatCard` (R186) -/
  | formatCard (h : CardHandle)
  /-- `readUri` (R194) -/
  | readUri (h : CardHandle)
  /-- `writeUri` (R195) -/
  | writeUri (h : CardHandle) (text : String)
  /-- `format` (R196) -/
  | format (h : CardHandle)
deriving DecidableEq, Repr

/-- The machine: the unit, its ports and parameters, the sequencer, the reader's side and the medium. -/
structure State where
  /-- the record S of the unit (R22) -/
  unit : UnitState
  /-- the parameters of R10, which no step changes (R243f; log 6, log 7) -/
  params : Params
  /-- the reset input `RST`, looked at between two steps (R240; log 1) -/
  rst : Bool
  /-- what the host asks for, in the order it issues it; the first entry is on the command port (R16, R94; log 8) -/
  host : List HostAct
  /-- the responses given so far, newest first; the first is on the response port (R94, R98; log 9) -/
  rsps : List Response
  /-- where the sequencer stands in the operation it runs (R181) -/
  seq : Seq
  /-- the reader's answers still to come (R68; log 3) -/
  reader : List ReaderInput
  /-- the card's storage (R50) -/
  medium : Memory
  /-- the reader calls made so far with their answers, newest first (R189; log 9) -/
  calls : List ReaderCall
  /-- the results of the operations ended so far, newest first (R180; log 9) -/
  results : List OpResult
deriving DecidableEq, Repr

/-- What stops the machine with a fault. -/
inductive Fault where
  /-- a reader primitive was called for a block index above 63, which names no block of the medium (R50);
  raised by the primitives of Machine/Ops.lean; safe: the machine stops (log 16) -/
  | noSuchBlock (blk : BitVec 8)
deriving DecidableEq, Repr

/-- What the machine refuses to do. -/
inductive Refusal where
  /-- raised by `exec` for a command that has no meaning yet; safe: the machine stops -/
  | notModelled (mnemonic : String)
  /-- raised by `writeFrame` for a payload above 65535 bytes, before anything is written (R185, U13, D31);
  safe: the spec itself says that a model refuses it (log 14) -/
  | payloadTooLong
deriving DecidableEq, Repr

/-- The three outcomes of a step. -/
abbrev Outcome := Host.Outcome State Fault Refusal

/-- The machine right after reset: the unit as R241 says, the parameters at their defaults (R10), nothing
asked for, nothing answered yet, and a card with no byte written (log 1, log 2). -/
def State.reset : State where
  unit := .reset
  params := .default
  rst := false
  host := []
  rsps := []
  seq := .idle
  reader := []
  medium := []
  calls := []
  results := []

end Sys2Proof.Machine
end

