-- ==== Sys2Proof/Machine/Operands.lean ====
section
/-! DEFINITION. Operands and the arithmetic the commands share: bytes of a block (R13, R104), sector
geometry (R110 to R112), header bytes (R123), sizes (R14, R140), the codes of R23, R25 and R211, and the
frame and its chunks (R85, R86, R103). -/

namespace Sys2Proof.Machine

/-! ## Bytes and blocks -/

/-- Byte `i` of a block: bits `[8i+7 : 8i]` of `BLK` (R104). -/
def blockByte (b : Block) (i : Nat) : Byte := b.extractLsb' (8 * i) 8

/-- The sixteen bytes of a block, offset 0 first (R13). -/
def blockBytes (b : Block) : List Byte := (List.range Config.blockSize).map (blockByte b)

/-- The block whose bytes are the list's, offset 0 first; zero beyond its end (R86, R104). -/
def blockOfBytes : List Byte → Block
  | [] => 0
  | v :: vs => v.setWidth 128 ||| (blockOfBytes vs <<< 8)

/-! ## Arithmetic (R14) -/

/-- `highByte(n)` (R14). -/
def highByte (n : Arg) : Byte := n.extractLsb' 8 8
/-- `lowByte(n)` (R14). -/
def lowByte (n : Arg) : Byte := n.extractLsb' 0 8
/-- `ceil16(n)`: `n` rounded up to a multiple of 16 (R14). -/
def ceil16 (n : Nat) : Nat := (n + 15) / Config.blockSize * Config.blockSize

/-! ## Sector geometry (R110 to R112) -/

/-- `sector = blockIndex div blocksPerSector` (R110). -/
def sectorOf (blockIndex : Arg) : BitVec 14 :=
  (blockIndex / BitVec.ofNat 16 Config.blocksPerSector).setWidth 14
/-- `subBlock = blockIndex mod blocksPerSector` (R110). -/
def subBlockOf (blockIndex : Arg) : BitVec 2 :=
  (blockIndex % BitVec.ofNat 16 Config.blocksPerSector).setWidth 2
/-- `isTrailer(subBlock)` (R111). -/
def isTrailer (subBlock : Arg) : Bool := subBlock == Config.trailerSub
/-- `isSectorStart(subBlock)` (R112). -/
def isSectorStart (subBlock : Arg) : Bool := subBlock == 0

/-- Linear index of data block number `k` in walk order (R52, R159). -/
def dataBlockIndex (k : Nat) : Nat := 4 + 4 * (k / 3) + k % 3

/-! ## Codes -/

/-- The codes of `PHASE` (R23). -/
def Phase.code : Phase → BitVec 2
  | .authenticating => 0
  | .transferring => 1
  | .done => 2
  | .failed => 3

/-- `Authenticating` and `Transferring` are the active phases (R23). -/
def Phase.active : Phase → Bool
  | .authenticating => true
  | .transferring => true
  | .done => false
  | .failed => false

/-- The codes of `MODE` (R25). -/
@[simp] def modeRead : BitVec 2 := 0
@[simp] def modeWrite : BitVec 2 := 1
@[simp] def modeFormat : BitVec 2 := 2

/-- The status codes and error kinds (R211): 7 and 10 to 15 have no name. -/
inductive Status where
  | ok
  | authenticationFailed
  | ioFailure
  | malformedTlv
  | unknownTlvType
  | missingTerminator
  | codecFailure
  | illegalCommand
  | illegalSequence
deriving DecidableEq, Repr

/-- The numbers of R211. -/
def Status.code : Status → BitVec 4
  | .ok => 0
  | .authenticationFailed => 1
  | .ioFailure => 2
  | .malformedTlv => 3
  | .unknownTlvType => 4
  | .missingTerminator => 5
  | .codecFailure => 6
  | .illegalCommand => 8
  | .illegalSequence => 9

/-- The kind as `ERR` latches it, 3 bits (R29). -/
def Status.errCode (k : Status) : BitVec 3 := k.code.setWidth 3

/-! ## TLV codec (R121 to R124) -/

/-- Whether a payload length takes the short header form (R82; 90_conflicts.md C1). -/
def isShortForm (n : Arg) : Bool := decide (n.toNat < Config.longThreshold)

/-- The four header bytes of a payload length (R85, R123). -/
def headerBytes (n : Arg) : List Byte :=
  if isShortForm n then [Config.tlvPad, Config.tlvPad, Config.tlvTypeNdef, lowByte n]
  else [Config.tlvTypeNdef, Config.tlvLongMarker, highByte n, lowByte n]

/-- Offset of the type byte in the 4-byte lead (R99, R123). -/
def frameStart (n : Arg) : BitVec 2 := if isShortForm n then 2 else 0

/-- The scan of `FFS` from offset `i` on: zeros are skipped, the first other byte must be the type byte,
and a block of zeros has no header (R121; D7). -/
def scanFrameStart : List Byte → Nat → Except Status Nat
  | [], _ => .error .malformedTlv
  | v :: vs, i =>
    if v = Config.tlvPad then scanFrameStart vs (i + 1)
    else if v = Config.tlvTypeNdef then .ok i
    else .error .unknownTlvType

/-- The scan of `FTERM` from offset `i` on: the first terminator byte, or none (R124). -/
def scanTerminator : List Byte → Nat → Option Nat
  | [], _ => none
  | v :: vs, i => if v = Config.tlvTerminator then some i else scanTerminator vs (i + 1)

/-- A decoded header: length, offset of the payload, form (R122). -/
structure Header where
  payloadLength : Arg
  payloadStart : Nat
  long : Bool
deriving DecidableEq, Repr

/-- `decodeHeader(block, offset)`, the tests in the order of R122 (D8: a header byte past offset 15 is
`MalformedTlv`). -/
def decodeHeader (b : Block) (o : Nat) : Except Status Header :=
  if blockByte b o ≠ Config.tlvTypeNdef then .error .malformedTlv
  else if 15 < o + 1 then .error .malformedTlv
  else if blockByte b (o + 1) = Config.tlvLongMarker then
    if 15 < o + 3 then .error .malformedTlv
    else .ok ⟨blockByte b (o + 2) ++ blockByte b (o + 3), o + Config.longTlvSize, true⟩
  else .ok ⟨(blockByte b (o + 1)).setWidth 16, o + Config.shortTlvSize, false⟩

/-- `TAKE`: how many leading bytes of the block the read path keeps; the terminator is kept unless it is
at offset 15 (R124, R249; 90_conflicts.md C7). -/
def takeCount : Option Nat → Nat
  | none => 16
  | some t => if t < 15 then t + 1 else 15

/-! ## Buffer sizer (R140) -/

/-- `requiredBufferSize(payloadLength)` (R140, R141). -/
def bufferSize (n : Nat) : Nat :=
  ceil16 (if n < Config.longThreshold then n + Config.shortAddend else n + Config.longAddend)

/-! ## The frame (R85, R86, R103, R128) -/

/-- The frame from its four header bytes and its payload (R128). -/
def frameWith (header payload : List Byte) : List Byte := header ++ payload ++ [Config.tlvTerminator]

/-- `FRAME payload` (R103, R128), for a payload of at most 65535 bytes. -/
def frame (payload : List Byte) : List Byte :=
  frameWith (headerBytes (BitVec.ofNat 16 payload.length)) payload

/-- `NCHUNKS len` (R86, R103). -/
def chunkCount (payloadLength : Nat) : Nat := (payloadLength + 5 + 15) / Config.blockSize

/-- Chunk `k` of a frame: bytes `16k .. 16k + 15`, zero beyond the frame's end (R86). -/
def chunk (fr : List Byte) (k : Nat) : Block :=
  blockOfBytes ((fr.drop (Config.blockSize * k)).take Config.blockSize)

/-- The first `count` chunks of a frame (R86). -/
def chunksOf (fr : List Byte) (count : Nat) : List Block := (List.range count).map (chunk fr)

/-- `CHUNKS frame` for the frame of `payload` (R86, R103). -/
def frameChunks (payload : List Byte) : List Block :=
  chunksOf (frame payload) (chunkCount payload.length)

/-- `trim(buf, start)`: the buffer without its first `start` bytes (R184). -/
def trim (buf : List Byte) (start : Nat) : List Byte := buf.drop start

end Sys2Proof.Machine
end

