-- ==== Sys2Proof/Machine/Flags.lean ====
section
/-! DEFINITION. The packing of results and flags into response words (30_encoding.md R99, 10_state.md R32,
R33) and the reading of those fields back, as the sequencer reads them. -/

namespace Sys2Proof.Machine

/-! ## Packing -/

/-- The yield word `V0` of `WNEXT`: block index, sector, sub-block, and the flags `A`, `S`, `D`, `E` (R99, R152). -/
def packYield (blk : BitVec 8) (a s d e : Bool) : BitVec 32 :=
  0#4 ++ BitVec.ofBool e ++ BitVec.ofBool d ++ BitVec.ofBool s ++ BitVec.ofBool a ++ 0#6 ++
    subBlockOf (blk.setWidth 16) ++ (sectorOf (blk.setWidth 16)).setWidth 8 ++ blk

/-- `V0` of `ENCHDR`: the four header bytes, the first most significant (R54, R99, R123). -/
def packHeader (h : List Byte) : BitVec 32 :=
  h.getD 0 0 ++ h.getD 1 0 ++ h.getD 2 0 ++ h.getD 3 0

/-- `V1` of `ENCHDR`: `L` in bit 0, `frameStart` in bits [2:1] (R99, R123). -/
def packHeaderForm (n : Arg) : BitVec 32 := 0#29 ++ frameStart n ++ BitVec.ofBool (!isShortForm n)

/-- `V1` of `DECHDR`: the payload's offset in bits [4:0], `L` in bit 8 (R99, R122). -/
def packDecoded (h : Header) : BitVec 32 :=
  0#23 ++ BitVec.ofBool h.long ++ 0#3 ++ BitVec.ofNat 5 h.payloadStart

/-- `V1` of `FTERM`: `FOUND` in bit 0, `TAKE` in bits [12:8] (R99, R124). -/
def packTerminator (t : Option Nat) : BitVec 32 :=
  0#19 ++ BitVec.ofNat 5 (takeCount t) ++ 0#7 ++ BitVec.ofBool t.isSome

/-- `V0` of `WSTAT` (R32, R157). -/
def packStatus (u : UnitState) : BitVec 32 :=
  u.errblk ++ 0#5 ++ u.err ++ u.bidx ++ 0#2 ++ u.mode ++ 0#1 ++ BitVec.ofBool u.pend ++ u.phase.code

/-! ## Reading the fields (R99) -/

/-- `blockIndex` of a yield, `V0[7:0]`. -/
def Response.blk (r : Response) : BitVec 8 := r.v0.extractLsb' 0 8
/-- `sector` of a yield, `V0[15:8]`. -/
def Response.sector (r : Response) : BitVec 8 := r.v0.extractLsb' 8 8
/-- `subBlock` of a yield, `V0[17:16]`. -/
def Response.subBlock (r : Response) : BitVec 2 := r.v0.extractLsb' 16 2
/-- `A`, `V0[24]`: authenticate this sector first. -/
def Response.flagA (r : Response) : Bool := r.v0.getLsbD 24
/-- `S`, `V0[25]`: skip this trailer. -/
def Response.flagS (r : Response) : Bool := r.v0.getLsbD 25
/-- `D`, `V0[26]`: done. -/
def Response.flagD (r : Response) : Bool := r.v0.getLsbD 26
/-- `E`, `V0[27]`: end of medium. -/
def Response.flagE (r : Response) : Bool := r.v0.getLsbD 27
/-- Logical offset of a yield, `V1[16:0]`. -/
def Response.offset (r : Response) : BitVec 17 := r.v1.extractLsb' 0 17

/-- `offset` of an `FFS` response, `V0[3:0]`. -/
def Response.frameOffset (r : Response) : BitVec 4 := r.v0.extractLsb' 0 4
/-- `payloadLength` of a `DECHDR` response, `V0[15:0]`. -/
def Response.payloadLength (r : Response) : Arg := r.v0.extractLsb' 0 16
/-- `payloadStartOffset` of a `DECHDR` response, `V1[4:0]`. -/
def Response.payloadStart (r : Response) : BitVec 5 := r.v1.extractLsb' 0 5
/-- `L` of a `DECHDR` response, `V1[8]`. -/
def Response.decodedLong (r : Response) : Bool := r.v1.getLsbD 8
/-- The four header bytes of an `ENCHDR` response, `h[0]` in `V0[31:24]`. -/
def Response.header (r : Response) : List Byte :=
  [r.v0.extractLsb' 24 8, r.v0.extractLsb' 16 8, r.v0.extractLsb' 8 8, r.v0.extractLsb' 0 8]
/-- `L` of an `ENCHDR` response, `V1[0]`. -/
def Response.encodedLong (r : Response) : Bool := r.v1.getLsbD 0
/-- `frameStart` of an `ENCHDR` response, `V1[2:1]`. -/
def Response.frameStart (r : Response) : BitVec 2 := r.v1.extractLsb' 1 2
/-- `size` of a `BUFSZ` response, `V0[16:0]`. -/
def Response.size (r : Response) : BitVec 17 := r.v0.extractLsb' 0 17
/-- `FOUND` of an `FTERM` response, `V1[0]`. -/
def Response.found (r : Response) : Bool := r.v1.getLsbD 0
/-- `TAKE` of an `FTERM` response, `V1[12:8]`. -/
def Response.take (r : Response) : BitVec 5 := r.v1.extractLsb' 8 5

end Sys2Proof.Machine
end

