-- ==== Sys2Proof/Machine/Ops.lean ====
section
/-! DEFINITION. The operations the meanings share: answering a command (R94, R98), raising an error (R15,
R222), the way in and out of a walk, the medium byte by byte and block by block (R50, R55), and the reader
primitives (R58 to R60, R68). -/

namespace Sys2Proof.Machine

/-! ## The response port -/

/-- Give the response `rsp(ST, V0, V1)` (R94, R98). -/
def State.respond (st : BitVec 4) (v0 v1 : BitVec 32) (s : State) : State :=
  { s with rsps := ⟨st, v0, v1⟩ :: s.rsps }

/-- The response of the last command. -/
def State.lastRsp (s : State) : Response := s.rsps.headD ⟨0, 0, 0⟩

/-- A command that succeeds: `rsp(0, V0, V1)`. -/
def State.succeed (v0 v1 : BitVec 32) (s : State) : State := s.respond Status.ok.code v0 v1

/-- `raise E`: the command ends with the status of `E`, `V0 = V1 = 0`, and nothing else changes (R15, R98). -/
def State.raise (e : Status) (s : State) : State := s.respond e.code 0 0

/-- Write the unit's record (R15: all writes of a command take effect together). -/
def State.withUnit (u : UnitState) (s : State) : State := { s with unit := u }

/-! ## Error entry and the way back -/

/-- Error entry of a walk: save the kind and the block, `PHASE = Failed`, clear `PEND`, keep the rest (R222). -/
def UnitState.failWalk (kind : BitVec 3) (u : UnitState) : UnitState :=
  { u with phase := .failed, err := kind, errblk := u.bidx, pend := false }

/-- The one way out of `Failed` and `Done`: a new walk from block 4, with the error cleared (R151, R224). -/
def UnitState.startWalk (mode : BitVec 2) (nblk : BitVec 13) : UnitState where
  phase := .authenticating
  pend := false
  mode := mode
  bidx := Config.firstDataBlock
  bcnt := 0
  limit := BitVec.ofNat 17 (Config.blockSize * nblk.toNat)
  err := 0
  errblk := 0

/-- A walk that ends without error: `PHASE = Done`, `PEND` cleared, the cursor and the counter kept (R152, R155). -/
def UnitState.endWalk (u : UnitState) : UnitState := { u with phase := .done, pend := false }

/-- The reset event: the unit's record as R241 says; medium, reader and sequencer are not affected (R240, R241). -/
def State.takeReset (s : State) : State := { s with unit := .reset, rst := false }

/-! ## The medium, byte by byte -/

/-- The canonical form: addresses strictly rise, lie on the medium (1024 bytes, R50), and no listed byte
equals what an unlisted address reads as. -/
def Memory.wfFrom (low : Nat) : Memory → Bool
  | [] => true
  | (a, v) :: m =>
    decide (low ≤ a) && decide (a < Config.numBlocks * Config.blockSize) && v != Config.blankByte &&
      Memory.wfFrom (a + 1) m

/-- The medium is in canonical form. -/
def Memory.wf (m : Memory) : Bool := Memory.wfFrom 0 m

/-- The byte at an address. -/
def memByte : Memory → Nat → Byte
  | [], _ => Config.blankByte
  | (b, v) :: m, a => if a = b then v else memByte m a

/-- Put the byte `v` in front at address `a`, unless it is what an unlisted address reads as. -/
def memCons (a : Nat) (v : Byte) (m : Memory) : Memory := if v = Config.blankByte then m else (a, v) :: m

/-- Write one byte, keeping the canonical form. -/
def memSet : Memory → Nat → Byte → Memory
  | [], a, v => memCons a v []
  | (b, w) :: m, a, v =>
    if a < b then memCons a v ((b, w) :: m)
    else if a = b then memCons a v m
    else (b, w) :: memSet m a v

/-- Write bytes at rising addresses. -/
def memSetBytes (m : Memory) (a : Nat) : List Byte → Memory
  | [] => m
  | v :: vs => memSetBytes (memSet m a v) (a + 1) vs

/-- The block at a linear index (R52, R59). -/
def readBlock (m : Memory) (blk : Nat) : Block :=
  blockOfBytes ((List.range Config.blockSize).map fun o => memByte m (Config.blockSize * blk + o))

/-- Replace the sixteen bytes of a block (R57, R60). -/
def writeBlock (m : Memory) (blk : Nat) (b : Block) : Memory :=
  memSetBytes m (Config.blockSize * blk) (blockBytes b)

/-! ## The reader (R58 to R60, R68) -/

/-- The reader's answer to a call: granted, or denied leaving 16 bytes behind (R56, R68). -/
inductive Answer where
  | granted
  | denied (left : Block)
deriving DecidableEq, Repr

/-- Whether the primitive succeeded. -/
def Answer.ok : Answer → Bool
  | .granted => true
  | .denied _ => false

/-- Take the next answer: changes to the card that stand before it happen first; with no answer there, the
primitive has not returned (R67, R68; log 3, log 5). -/
def takeAnswer : List ReaderInput → Memory → Option (Answer × List ReaderInput × Memory)
  | [], _ => none
  | .grant :: rest, m => some (.granted, rest, m)
  | .deny left :: rest, m => some (.denied left, rest, m)
  | .cardSets blk b :: rest, m => takeAnswer rest (writeBlock m blk.toNat b)

/-- Call a primitive for block `blk`: an index above 63 names no block (R50; log 16), a primitive that has not
returned leaves everything as it is (R67), and an answer goes to `k`. -/
def callReader (blk : BitVec 8) (s : State) (k : Answer → State → Outcome) : Outcome :=
  if Config.numBlocks ≤ blk.toNat then .fault (.noSuchBlock blk)
  else
    match takeAnswer s.reader s.medium with
    | none => .next s
    | some (ans, rest, m) => k ans { s with reader := rest, medium := m }

/-- Record a reader call (R189). -/
def State.log (c : ReaderCall) (s : State) : State := { s with calls := c :: s.calls }

/-- `Auth(h, blk)`: with the default key and the key type (R58). -/
def authCall (h : CardHandle) (blk : BitVec 8) (s : State) (k : Bool → State → Outcome) : Outcome :=
  callReader blk s fun ans t =>
    k ans.ok (t.log (.auth h blk t.params.keyType t.params.defaultKey ans.ok))

/-- What a `MemRead` brings (R59). -/
def readAnswer (m : Memory) (blk : BitVec 8) : Answer → Option Block
  | .granted => some (readBlock m blk.toNat)
  | .denied _ => none

/-- `MemRead(blk, 16)`: the block's current contents, or none (R59). -/
def readCall (blk : BitVec 8) (s : State) (k : Option Block → State → Outcome) : Outcome :=
  callReader blk s fun ans t =>
    k (readAnswer t.medium blk ans) (t.log (.read blk (readAnswer t.medium blk ans)))

/-- What a `MemWrite` of `data` leaves in its block: the data if granted, any 16 bytes if denied (R56, R60). -/
def writeLeaves (data : Block) : Answer → Block
  | .granted => data
  | .denied left => left

/-- `MemWrite(blk, 16, data)` (R60). -/
def writeCall (blk : BitVec 8) (data : Block) (s : State) (k : Bool → State → Outcome) : Outcome :=
  callReader blk s fun ans t =>
    k ans.ok ({ t with medium := writeBlock t.medium blk.toNat (writeLeaves data ans) }.log (.write blk data ans.ok))

/-! ## The sequencer's bookkeeping -/

/-- The sequencer goes on at `q`. -/
def State.goto (q : Seq) (s : State) : State := { s with seq := q }

/-- The operation ends with result `r` (R180). -/
def State.finish (r : OpResult) (s : State) : State := { s with seq := .idle, results := r :: s.results }

end Sys2Proof.Machine
end

