-- ==== Sys2Proof/Machine/Codec.lean ====
section
/-! DEFINITION. TLV codec commands (41_tlv_codec.md). -/

namespace Sys2Proof.Machine

/-- `FFS` (R121). -/
def execFfs (blk : Block) (s : State) : Outcome :=
  match scanFrameStart (blockBytes blk) 0 with
  | .ok o => .next (s.succeed (BitVec.ofNat 32 o) 0)
  | .error e => .next (s.raise e)

/-- `DECHDR` (R122). -/
def execDechdr (offset : BitVec 4) (blk : Block) (s : State) : Outcome :=
  match decodeHeader blk offset.toNat with
  | .ok h => .next (s.succeed (h.payloadLength.setWidth 32) (packDecoded h))
  | .error e => .next (s.raise e)

/-- `ENCHDR` (R123). -/
def execEnchdr (payloadLength : Arg) (s : State) : Outcome :=
  .next (s.succeed (packHeader (headerBytes payloadLength)) (packHeaderForm payloadLength))

/-- `FTERM` (R124). -/
def execFterm (blk : Block) (s : State) : Outcome :=
  let t := scanTerminator (blockBytes blk) 0
  .next (s.succeed (BitVec.ofNat 32 (t.getD 0)) (packTerminator t))

end Sys2Proof.Machine
end

