-- ==== Sys2Proof/Machine/Geometry.lean ====
section
/-! DEFINITION. Sector geometry commands (40_sector_geometry.md). -/

namespace Sys2Proof.Machine

/-- `LOCATE` (R110). -/
def execLocate (blockIndex : Arg) (s : State) : Outcome :=
  .next (s.succeed ((sectorOf blockIndex).setWidth 32) ((subBlockOf blockIndex).setWidth 32))

/-- `ISTRL` (R111). -/
def execIstrl (subBlock : Arg) (s : State) : Outcome :=
  .next (s.succeed ((BitVec.ofBool (isTrailer subBlock)).setWidth 32) 0)

/-- `ISSTART` (R112). -/
def execIsstart (subBlock : Arg) (s : State) : Outcome :=
  .next (s.succeed ((BitVec.ofBool (isSectorStart subBlock)).setWidth 32) 0)

end Sys2Proof.Machine
end

