-- ==== Sys2Proof/Machine/Iterator.lean ====
section
/-! DEFINITION. Block-skip iterator commands (43_block_iterator.md). -/

namespace Sys2Proof.Machine

/-- `WINIT` (R151): legal in every phase; `MODE = 3` is `IllegalCommand`. -/
def execWinit (mode : BitVec 2) (nblk : BitVec 13) (s : State) : Outcome :=
  if legalMode mode then .next ((s.withUnit (.startWalk mode nblk)).succeed 0 0)
  else .next (s.raise .illegalCommand)

/-- A yield of `WNEXT`: the new unit state, the word of the yield, and the byte counter as it was (R152). -/
def yieldNext (u : UnitState) (v0 : BitVec 32) (s : State) : Outcome :=
  .next ((s.withUnit u).succeed v0 (s.unit.bcnt.setWidth 32))

/-- `WNEXT` at the end of the medium fails the walk; the block index is in `V0[7:0]` (R98, R152). -/
def failNext (e : Status) (s : State) : Outcome :=
  .next ((s.withUnit (s.unit.failWalk e.errCode)).respond e.code (s.unit.bidx.setWidth 32) 0)

/-- Steps (3) to (6) of `WNEXT`: classify the block under the cursor (R152). -/
def classifyNext (s : State) : Outcome :=
  let u := s.unit
  if u.phase = .authenticating then
    yieldNext { u with pend := true } (packYield u.bidx true false false false) s
  else if isTrailer ((subBlockOf (u.bidx.setWidth 16)).setWidth 16) then
    yieldNext { u with bidx := u.bidx + 1, pend := false, phase := .authenticating }
      (packYield u.bidx false true false false) s
  else
    yieldNext { u with pend := true } (packYield u.bidx false false false false) s

/-- `WNEXT` (R152). The last arm of step (2) is `MODE = 3`, which no walk holds (R31i): the pseudocode goes
on to step (3) with `PEND` cleared (log 11). -/
def execWnext (s : State) : Outcome :=
  let u := s.unit
  if !u.phase.active then .next (s.raise .illegalSequence)
  else if u.mode ≠ modeFormat ∧ u.limit ≤ u.bcnt then
    yieldNext u.endWalk (packYield u.bidx false false true false) s
  else if s.params.lastBlock < u.bidx then
    if u.mode = modeFormat then yieldNext u.endWalk (packYield u.bidx false false true true) s
    else if u.mode = modeRead then failNext .missingTerminator s
    else if u.mode = modeWrite then failNext .ioFailure s
    else classifyNext (s.withUnit { u with pend := false })
  else classifyNext s

/-- `WAUTH` (R153). -/
def execWauth (ok : Bool) (s : State) : Outcome :=
  let u := s.unit
  if u.phase = .authenticating ∧ u.pend = true then
    if ok then .next ((s.withUnit { u with pend := false, phase := .transferring }).succeed 0 0)
    else .next ((s.withUnit (u.failWalk Status.authenticationFailed.errCode)).succeed 0 0)
  else .next (s.raise .illegalSequence)

/-- `WACK` (R154). -/
def execWack (s : State) : Outcome :=
  let u := s.unit
  if u.phase = .transferring ∧ u.pend = true then
    .next ((s.withUnit { u with bcnt := u.bcnt + 16, bidx := u.bidx + 1, pend := false }).succeed 0 0)
  else .next (s.raise .illegalSequence)

/-- `WSTOP` (R155). -/
def execWstop (s : State) : Outcome :=
  if s.unit.phase.active then .next ((s.withUnit s.unit.endWalk).succeed 0 0)
  else .next (s.raise .illegalSequence)

/-- `WFAIL` (R156): the code is tested before the phase (R221). -/
def execWfail (code : BitVec 3) (s : State) : Outcome :=
  if !legalCode code then .next (s.raise .illegalCommand)
  else if s.unit.phase.active then .next ((s.withUnit (s.unit.failWalk code)).succeed 0 0)
  else .next (s.raise .illegalSequence)

/-- `WSTAT` (R157): reads the state, changes nothing. -/
def execWstat (s : State) : Outcome :=
  .next (s.succeed (packStatus s.unit) (s.unit.bcnt.setWidth 32))

end Sys2Proof.Machine
end

