-- ==== Sys2Proof/Machine/Sizer.lean ====
section
/-! DEFINITION. Buffer sizer command (42_buffer_sizer.md). -/

namespace Sys2Proof.Machine

/-- `BUFSZ` (R140, R141). -/
def execBufsz (payloadLength : Arg) (s : State) : Outcome :=
  .next (s.succeed (BitVec.ofNat 32 (bufferSize payloadLength.toNat)) 0)

end Sys2Proof.Machine
end

