-- ==== Sys2Proof/Machine/Dispatch.lean ====
section
/-! DEFINITION. One arm per command, in the order of the opcode table. -/

namespace Sys2Proof.Machine

def exec (i : Instr) (s : State) : Host.Outcome State Fault Refusal :=
  match i with
  | .locate blockIndex => Sys2Proof.Machine.execLocate blockIndex s
  | .istrl subBlock => Sys2Proof.Machine.execIstrl subBlock s
  | .isstart subBlock => Sys2Proof.Machine.execIsstart subBlock s
  | .ffs blk => Sys2Proof.Machine.execFfs blk s
  | .dechdr offset blk => Sys2Proof.Machine.execDechdr offset blk s
  | .enchdr payloadLength => Sys2Proof.Machine.execEnchdr payloadLength s
  | .fterm blk => Sys2Proof.Machine.execFterm blk s
  | .bufsz payloadLength => Sys2Proof.Machine.execBufsz payloadLength s
  | .winit mode nblk => Sys2Proof.Machine.execWinit mode nblk s
  | .wnext => Sys2Proof.Machine.execWnext s
  | .wauth ok => Sys2Proof.Machine.execWauth ok s
  | .wack => Sys2Proof.Machine.execWack s
  | .wstop => Sys2Proof.Machine.execWstop s
  | .wfail code => Sys2Proof.Machine.execWfail code s
  | .wstat => Sys2Proof.Machine.execWstat s

end Sys2Proof.Machine
end

