-- ==== Sys2Proof/Machine/Sequencer.lean ====
section
/-! DEFINITION. The sequencer: the reference sequences of 44_walker_sequences.md, one command of the unit or
one reader call per step (log 12), and the host's side of the command port (R93, R94, R103, R194 to R196). -/

namespace Sys2Proof.Machine

/-- Issue a command to the unit and go on with its response (R94). -/
def issue (i : Instr) (s : State) (k : Response → State → Outcome) : Outcome :=
  match exec i s with
  | .next t => k t.lastRsp t
  | .fault f => .fault f
  | .refused r => .refused r

/-- The mode `WINIT` is given for a job (R25, R181). -/
def Job.mode : Job → BitVec 2
  | .read _ _ _ => modeRead
  | .write _ => modeWrite
  | .format => modeFormat

/-- What `readUri` makes of the bytes of `readFrame` (R194): the record's URI or `CodecFailure`. -/
def decodeUri (data : List Byte) : OpResult :=
  match Config.decodeMessage data with
  | some record => .uri record.uri
  | none => .failed Status.codecFailure.code none

/-- The result of a walk that ended without error (R183 to R186). -/
def Job.success : Job → OpResult
  | .read start buf uri => if uri then decodeUri (trim buf start) else .bytes (trim buf start)
  | .write _ => .done
  | .format => .done

/-! ## Read-setup (R182) -/

/-- `if not Auth(h, 4): fail with AuthenticationFailed(4)` -/
def seqSetupAuth (h : CardHandle) (uri : Bool) (s : State) : Outcome :=
  authCall h Config.firstDataBlock s fun ok t =>
    if ok then .next (t.goto (.setupRead h uri))
    else .next (t.finish (.failed Status.authenticationFailed.code (some Config.firstDataBlock)))

/-- `b = MemRead(4, 16); if b == none: fail with IoFailure(4)` -/
def seqSetupRead (h : CardHandle) (uri : Bool) (s : State) : Outcome :=
  readCall Config.firstDataBlock s fun ans t =>
    match ans with
    | some b => .next (t.goto (.setupFfs h uri b))
    | none => .next (t.finish (.failed Status.ioFailure.code (some Config.firstDataBlock)))

/-- `r = FFS b`: on an error, fail with its kind (90_conflicts.md C4). -/
def seqSetupFfs (h : CardHandle) (uri : Bool) (b : Block) (s : State) : Outcome :=
  issue (.ffs b) s fun r t =>
    if r.st ≠ 0 then .next (t.finish (.failed r.st none))
    else .next (t.goto (.setupDechdr h uri b r.frameOffset))

/-- `d = DECHDR o, b`: on an error, fail with its kind (90_conflicts.md C4). -/
def seqSetupDechdr (h : CardHandle) (uri : Bool) (b : Block) (o : BitVec 4) (s : State) : Outcome :=
  issue (.dechdr o b) s fun r t =>
    if r.st ≠ 0 then .next (t.finish (.failed r.st none))
    else .next (t.goto (.sizing h uri r.payloadLength r.payloadStart.toNat))

/-! ## The budgets (R183, R185) -/

/-- `size = (BUFSZ n).V0[16:0]`, then a READ walk of `size div 16` blocks from an empty buffer (R183). -/
def seqSizing (h : CardHandle) (uri : Bool) (n : Arg) (start : Nat) (s : State) : Outcome :=
  issue (.bufsz n) s fun r t =>
    .next (t.goto (.walkInit ⟨h, .read start [] uri⟩ (BitVec.ofNat 13 (r.size.toNat / Config.blockSize))))

/-- `ENCHDR len(P)`, then a WRITE walk over the chunks of the frame (R185). -/
def seqEncoding (h : CardHandle) (payload : List Byte) (s : State) : Outcome :=
  issue (.enchdr (BitVec.ofNat 16 payload.length)) s fun r t =>
    .next (t.goto (.walkInit
      ⟨h, .write (chunksOf (frameWith r.header payload) (chunkCount payload.length))⟩
      (BitVec.ofNat 13 (chunkCount payload.length))))

/-! ## The common loop (R181) -/

/-- `WINIT mode, nblk` -/
def seqWalkInit (w : Walk) (nblk : BitVec 13) (s : State) : Outcome :=
  issue (.winit w.job.mode nblk) s fun _ t => .next (t.goto (.walkNext w))

/-- What the loop does with a yield, in the order of R181. -/
def onYield (w : Walk) (y : Response) (t : State) : Outcome :=
  if y.st ≠ 0 then .next (t.finish (.failed y.st (some y.blk)))
  else if y.flagD then .next (t.finish w.job.success)
  else if y.flagA then .next (t.goto (.walkAuth w y.blk))
  else if y.flagS then .next (t.goto (.walkNext w))
  else .next (t.goto (.walkData w y.blk y.offset))

/-- `y = WNEXT` -/
def seqWalkNext (w : Walk) (s : State) : Outcome := issue .wnext s (onYield w)

/-- `ok = Auth(h, blk)` -/
def seqWalkAuth (w : Walk) (blk : BitVec 8) (s : State) : Outcome :=
  authCall w.handle blk s fun ok t => .next (t.goto (.walkTell w blk ok))

/-- `WAUTH ok; if not ok: fail with AuthenticationFailed(blk)` (its response is not looked at: log 13). -/
def seqWalkTell (w : Walk) (blk : BitVec 8) (ok : Bool) (s : State) : Outcome :=
  issue (.wauth ok) s fun _ t =>
    if ok then .next (t.goto (.walkNext w))
    else .next (t.finish (.failed Status.authenticationFailed.code (some blk)))

/-- The outcome of a `MemWrite` in a write or format walk: `Continue` or `Fail(IoFailure)` (R185, R186). -/
def onWritten (w : Walk) (blk : BitVec 8) (ok : Bool) (t : State) : Outcome :=
  if ok then .next (t.goto (.walkAck w))
  else .next (t.goto (.walkFail w Status.ioFailure.errCode blk))

/-- The per-block action up to its reader call (R183, R185, R186). The chunk is selected by the logical offset. -/
def seqWalkData (w : Walk) (blk : BitVec 8) (off : BitVec 17) (s : State) : Outcome :=
  match w.job with
  | .read _ _ _ =>
    readCall blk s fun ans t =>
      match ans with
      | some b => .next (t.goto (.walkTerm w b))
      | none => .next (t.goto (.walkFail w Status.ioFailure.errCode blk))
  | .write chunks => writeCall blk (chunks.getD (off.toNat / Config.blockSize) 0) s (onWritten w blk)
  | .format => writeCall blk 0 s (onWritten w blk)

/-- Append the bytes of a block the read path keeps (R183). -/
def Job.append (kept : List Byte) : Job → Job
  | .read start buf uri => .read start (buf ++ kept) uri
  | .write chunks => .write chunks
  | .format => .format

/-- `f = FTERM b; buf = buf ++ b[0 .. f.TAKE - 1]; if f.FOUND: Stop else Continue` (R183) -/
def seqWalkTerm (w : Walk) (b : Block) (s : State) : Outcome :=
  issue (.fterm b) s fun r t =>
    let w' : Walk := ⟨w.handle, w.job.append ((blockBytes b).take r.take.toNat)⟩
    if r.found then .next (t.goto (.walkStop w')) else .next (t.goto (.walkAck w'))

/-- `WACK` -/
def seqWalkAck (w : Walk) (s : State) : Outcome :=
  issue .wack s fun _ t => .next (t.goto (.walkNext w))

/-- `WSTOP; return success` -/
def seqWalkStop (w : Walk) (s : State) : Outcome :=
  issue .wstop s fun _ t => .next (t.finish w.job.success)

/-- `WFAIL kind; fail with kind(blk)` -/
def seqWalkFail (kind : BitVec 3) (blk : BitVec 8) (s : State) : Outcome :=
  issue (.wfail kind) s fun _ t => .next (t.finish (.failed (kind.setWidth 4) (some blk)))

/-- One step of the sequencer. -/
def seqStep (s : State) : Outcome :=
  match s.seq with
  | .idle => .next s
  | .setupAuth h uri => seqSetupAuth h uri s
  | .setupRead h uri => seqSetupRead h uri s
  | .setupFfs h uri b => seqSetupFfs h uri b s
  | .setupDechdr h uri b o => seqSetupDechdr h uri b o s
  | .sizing h uri n start => seqSizing h uri n start s
  | .encoding h payload => seqEncoding h payload s
  | .walkInit w nblk => seqWalkInit w nblk s
  | .walkNext w => seqWalkNext w s
  | .walkAuth w blk => seqWalkAuth w blk s
  | .walkTell w blk ok => seqWalkTell w blk ok s
  | .walkData w blk off => seqWalkData w blk off s
  | .walkTerm w b => seqWalkTerm w b s
  | .walkAck w => seqWalkAck w s
  | .walkStop w => seqWalkStop w s
  | .walkFail _ kind blk => seqWalkFail kind blk s

/-! ## The host -/

/-- Run the command on the port: an illegal word is answered `rsp(8, 0, 0)` and changes nothing (R93, R94, R100). -/
def runCommand (cw : CmdWord) (blk : Block) (s : State) : Outcome :=
  match decode cw blk with
  | .ok i => exec i s
  | .error _ => .next (s.raise .illegalCommand)

/-- Begin `writeFrame` (R185): a payload with no header encoding is refused before anything is written (U13). -/
def beginWrite (h : CardHandle) (payload : List Byte) (s : State) : Outcome :=
  if Config.maxPayload < payload.length then .refused .payloadTooLong
  else .next (s.goto (.encoding h payload))

/-- Begin `writeUri` (R195): if the record codec rejects the string, `CodecFailure` and the medium is not touched. -/
def beginWriteUri (h : CardHandle) (text : String) (s : State) : Outcome :=
  match Config.encodeUriRecord text with
  | some payload => beginWrite h payload s
  | none => .next (s.finish (.failed Status.codecFailure.code none))

/-- Drop the entry the host asked for. -/
def State.served (rest : List HostAct) (s : State) : State := { s with host := rest }

/-- What the first entry of the host's list does; `rest` is what stands behind it. -/
def hostAct (a : HostAct) (rest : List HostAct) (s : State) : Outcome :=
  match a with
  | .command cw blk => runCommand cw blk (s.served rest)
  | .reset => .next (s.served rest).takeReset
  | .auth h blk => authCall h blk s fun _ t => .next (t.served rest)
  | .read blk => readCall blk s fun _ t => .next (t.served rest)
  | .write blk data => writeCall blk data s fun _ t => .next (t.served rest)
  | .readFrame h => .next ((s.served rest).goto (.setupAuth h false))
  | .writeFrame h payload => beginWrite h payload (s.served rest)
  | .formatCard h => .next ((s.served rest).goto (.walkInit ⟨h, .format⟩ 0))
  | .readUri h => .next ((s.served rest).goto (.setupAuth h true))
  | .writeUri h text => beginWriteUri h text (s.served rest)
  | .format h => .next ((s.served rest).goto (.walkInit ⟨h, .format⟩ 0))

/-- With no operation in progress the unit waits for the host's next entry (R242). -/
def hostStep (s : State) : Outcome :=
  match s.host with
  | [] => .next s
  | a :: rest => hostAct a rest s

end Sys2Proof.Machine
end

