-- ==== Sys2Proof/Machine/Step.lean ====
section
/-! DEFINITION. One step of the machine, and where a command waits to be run. -/

namespace Sys2Proof.Machine

/-- One step: the reset input first (R240: between two commands), then the operation in progress (R181),
then what the host asks for (R16, R94). -/
def step (s : State) : Host.Outcome State Fault Refusal :=
  if s.rst then .next s.takeReset
  else if s.seq = .idle then hostStep s
  else seqStep s

/-- The machine with the command of an opcode-table word on its command port: `CW` is the low 32 bits, `BLK`
what stands above them; no reset is asserted and no operation is in progress, so the next step runs it (log 8). -/
def State.withFetchWord (s : State) (nbits w : Nat) : State :=
  { s with
    rst := false
    seq := .idle
    host := .command (BitVec.ofNat 32 (w % 2 ^ nbits)) (BitVec.ofNat 128 (w % 2 ^ nbits / 2 ^ 32)) :: s.host }

end Sys2Proof.Machine
end

