-- ==== Sys2Proof/Machine/Assembler.lean ====
section
/-! DEFINITION. The assembler form of a command (30_encoding.md R102): one line is a mnemonic and its
operands; how a line stands for a command, how a command is written, the text of a line and of a response, and
the reading of a line of text. -/

namespace Sys2Proof.Machine

/-- The mnemonics of R96. -/
inductive Mnemonic where
  | LOCATE | ISTRL | ISSTART | FFS | DECHDR | ENCHDR | FTERM | BUFSZ
  | WINIT | WNEXT | WAUTH | WACK | WSTOP | WFAIL | WSTAT
deriving DecidableEq, Repr

/-- The mode names of `WINIT` (R102). -/
inductive ModeName where
  | READ | WRITE | FORMAT
deriving DecidableEq, Repr

/-- An operand of a line (R102). -/
inductive AsmOperand where
  /-- a decimal or hexadecimal number -/
  | num (n : Nat)
  /-- a mode name -/
  | mode (m : ModeName)
  /-- an error kind by name (R211) -/
  | kind (k : Status)
  /-- sixteen bytes in square brackets, offset 0 first -/
  | block (bytes : List Byte)
deriving DecidableEq, Repr

/-- A line of assembler text without its comment (R102). -/
structure AsmLine where
  mnemonic : Mnemonic
  operands : List AsmOperand
deriving DecidableEq, Repr

/-- A number as a 16-bit operand. -/
def asmArg (n : Nat) : Option Arg := if n < 65536 then some (BitVec.ofNat 16 n) else none

/-- A block operand: exactly sixteen bytes. -/
def asmBlock (bytes : List Byte) : Option Block :=
  if bytes.length = 16 then some (blockOfBytes bytes) else none

/-- The code of a mode name (R25). -/
def ModeName.code : ModeName → BitVec 2
  | .READ => modeRead
  | .WRITE => modeWrite
  | .FORMAT => modeFormat

/-- The kind of `WFAIL` by its code, 1 to 6 (R102, R156). -/
def asmCode (n : Nat) : Option (BitVec 3) := if 1 ≤ n ∧ n ≤ 6 then some (BitVec.ofNat 3 n) else none

/-- Whether a status is one of the six error kinds `WFAIL` takes (R97, R211). -/
def Status.isErrorKind (k : Status) : Bool := decide (1 ≤ k.code.toNat ∧ k.code.toNat ≤ 6)

/-- The command a line stands for, if it stands for one (R102). -/
def assemble (l : AsmLine) : Option Instr :=
  match l.mnemonic, l.operands with
  | .LOCATE, [.num n] => (asmArg n).map .locate
  | .ISTRL, [.num n] => (asmArg n).map .istrl
  | .ISSTART, [.num n] => (asmArg n).map .isstart
  | .FFS, [.block b] => (asmBlock b).map .ffs
  | .DECHDR, [.num n, .block b] => if n < 16 then (asmBlock b).map (.dechdr (BitVec.ofNat 4 n)) else none
  | .ENCHDR, [.num n] => (asmArg n).map .enchdr
  | .FTERM, [.block b] => (asmBlock b).map .fterm
  | .BUFSZ, [.num n] => (asmArg n).map .bufsz
  | .WINIT, [.mode m, .num n] => if n < 8192 then some (.winit m.code (BitVec.ofNat 13 n)) else none
  | .WNEXT, [] => some .wnext
  | .WAUTH, [.num n] => if n < 2 then some (.wauth (n == 1)) else none
  | .WACK, [] => some .wack
  | .WSTOP, [] => some .wstop
  | .WFAIL, [.kind k] => if k.isErrorKind then some (.wfail k.errCode) else none
  | .WFAIL, [.num n] => (asmCode n).map .wfail
  | .WSTAT, [] => some .wstat
  | _, _ => none

/-- The name of a mode, or its number where it has none (R25). -/
def asmMode (mode : BitVec 2) : AsmOperand :=
  match mode.toNat with
  | 0 => .mode .READ
  | 1 => .mode .WRITE
  | 2 => .mode .FORMAT
  | n => .num n

/-- How a command is written (R102). -/
def disassemble : Instr → AsmLine
  | .locate blockIndex => ⟨.LOCATE, [.num blockIndex.toNat]⟩
  | .istrl subBlock => ⟨.ISTRL, [.num subBlock.toNat]⟩
  | .isstart subBlock => ⟨.ISSTART, [.num subBlock.toNat]⟩
  | .ffs blk => ⟨.FFS, [.block (blockBytes blk)]⟩
  | .dechdr offset blk => ⟨.DECHDR, [.num offset.toNat, .block (blockBytes blk)]⟩
  | .enchdr payloadLength => ⟨.ENCHDR, [.num payloadLength.toNat]⟩
  | .fterm blk => ⟨.FTERM, [.block (blockBytes blk)]⟩
  | .bufsz payloadLength => ⟨.BUFSZ, [.num payloadLength.toNat]⟩
  | .winit mode nblk => ⟨.WINIT, [asmMode mode, .num nblk.toNat]⟩
  | .wnext => ⟨.WNEXT, []⟩
  | .wauth ok => ⟨.WAUTH, [.num ok.toNat]⟩
  | .wack => ⟨.WACK, []⟩
  | .wstop => ⟨.WSTOP, []⟩
  | .wfail code => ⟨.WFAIL, [.num code.toNat]⟩
  | .wstat => ⟨.WSTAT, []⟩

/-! ## Text -/

/-- The capitals of a mnemonic (R96). -/
def Mnemonic.text : Mnemonic → String
  | .LOCATE => "LOCATE"
  | .ISTRL => "ISTRL"
  | .ISSTART => "ISSTART"
  | .FFS => "FFS"
  | .DECHDR => "DECHDR"
  | .ENCHDR => "ENCHDR"
  | .FTERM => "FTERM"
  | .BUFSZ => "BUFSZ"
  | .WINIT => "WINIT"
  | .WNEXT => "WNEXT"
  | .WAUTH => "WAUTH"
  | .WACK => "WACK"
  | .WSTOP => "WSTOP"
  | .WFAIL => "WFAIL"
  | .WSTAT => "WSTAT"

/-- The names of the modes (R102). -/
def ModeName.text : ModeName → String
  | .READ => "READ"
  | .WRITE => "WRITE"
  | .FORMAT => "FORMAT"

/-- The names of R211. -/
def Status.text : Status → String
  | .ok => "OK"
  | .authenticationFailed => "AuthenticationFailed"
  | .ioFailure => "IoFailure"
  | .malformedTlv => "MalformedTlv"
  | .unknownTlvType => "UnknownTlvType"
  | .missingTerminator => "MissingTerminator"
  | .codecFailure => "CodecFailure"
  | .illegalCommand => "IllegalCommand"
  | .illegalSequence => "IllegalSequence"

/-- A hexadecimal digit. -/
def hexDigit (n : Nat) : String := ("0123456789ABCDEF".toList.getD n '0').toString

/-- A byte as two hexadecimal digits. -/
def hexByte (b : Byte) : String := hexDigit (b.toNat / 16) ++ hexDigit (b.toNat % 16)

/-- An operand as text. -/
def AsmOperand.text : AsmOperand → String
  | .num n => toString n
  | .mode m => m.text
  | .kind k => k.text
  | .block bytes => "[" ++ String.intercalate " " (bytes.map hexByte) ++ "]"

/-- A line as text: the mnemonic, then the operands separated by commas. -/
def AsmLine.text (l : AsmLine) : String :=
  if l.operands.isEmpty then l.mnemonic.text
  else l.mnemonic.text ++ " " ++ String.intercalate ", " (l.operands.map AsmOperand.text)

/-- The status of a code that has a name (R211). -/
def statusOf (st : BitVec 4) : Option Status :=
  [Status.ok, .authenticationFailed, .ioFailure, .malformedTlv, .unknownTlvType, .missingTerminator, .codecFailure,
    .illegalCommand, .illegalSequence].find? fun k => k.code == st

/-- A response word as `0x` and eight hexadecimal digits. -/
def hexWord (w : BitVec 32) : String :=
  "0x" ++ hexByte (w.extractLsb' 24 8) ++ hexByte (w.extractLsb' 16 8) ++ hexByte (w.extractLsb' 8 8) ++
    hexByte (w.extractLsb' 0 8)

/-- A response as text (R102). -/
def Response.text (r : Response) : String :=
  let name := match statusOf r.st with
    | some k => k.text
    | none => toString r.st.toNat
  "-> ST=" ++ name ++ ", V0=" ++ hexWord r.v0 ++ ", V1=" ++ hexWord r.v1

/-! ## Reading a line -/

/-- The parts of a text between separators. -/
def splitBy (sep : Char) : List Char → List (List Char)
  | [] => [[]]
  | c :: cs =>
    if c = sep then [] :: splitBy sep cs
    else match splitBy sep cs with
      | [] => [[c]]
      | part :: parts => (c :: part) :: parts

/-- The words of a text. -/
def wordsOf (cs : List Char) : List (List Char) := (splitBy ' ' cs).filter fun w => !w.isEmpty

/-- All the values of a list, if none is missing. -/
def allOf {α : Type} : List (Option α) → Option (List α)
  | [] => some []
  | none :: _ => none
  | some a :: as => (allOf as).map (a :: ·)

/-- The value of a digit up to hexadecimal. -/
def digitValue (c : Char) : Option Nat :=
  if '0' ≤ c ∧ c ≤ '9' then some (c.toNat - 48)
  else if 'A' ≤ c ∧ c ≤ 'F' then some (c.toNat - 55)
  else if 'a' ≤ c ∧ c ≤ 'f' then some (c.toNat - 87)
  else none

/-- The digits of a number in a base, `acc` being the value of those before them. -/
def readDigits (base acc : Nat) : List Char → Option Nat
  | [] => some acc
  | c :: cs =>
    match digitValue c with
    | some d => if d < base then readDigits base (base * acc + d) cs else none
    | none => none

/-- A decimal or `0x` hexadecimal number (R102). -/
def readNumber : List Char → Option Nat
  | [] => none
  | '0' :: 'x' :: d :: ds => readDigits 16 0 (d :: ds)
  | d :: ds => readDigits 10 0 (d :: ds)

/-- A byte as two hexadecimal digits (R102). -/
def readByte : List Char → Option Byte
  | [a, b] => (readDigits 16 0 [a, b]).map (BitVec.ofNat 8)
  | _ => none

/-- The mnemonic a word spells (R96). -/
def readMnemonic (w : List Char) : Option Mnemonic :=
  [Mnemonic.LOCATE, .ISTRL, .ISSTART, .FFS, .DECHDR, .ENCHDR, .FTERM, .BUFSZ, .WINIT, .WNEXT, .WAUTH, .WACK,
    .WSTOP, .WFAIL, .WSTAT].find? fun m => m.text == String.ofList w

/-- An operand that is one word: a mode name, a kind by name, or a number (R102). -/
def readWord (w : List Char) : Option AsmOperand :=
  match [ModeName.READ, .WRITE, .FORMAT].find? fun m => m.text == String.ofList w with
  | some m => some (.mode m)
  | none =>
    match [Status.authenticationFailed, .ioFailure, .malformedTlv, .unknownTlvType, .missingTerminator,
        .codecFailure].find? fun k => k.text == String.ofList w with
    | some k => some (.kind k)
    | none => (readNumber w).map .num

/-- An operand: a block in square brackets, or one word (R102). -/
def readOperand (cs : List Char) : Option AsmOperand :=
  match cs.dropWhile (· == ' ') with
  | '[' :: inner =>
    if wordsOf (inner.dropWhile (· != ']')) = [[']']] then
      (allOf ((wordsOf (inner.takeWhile (· != ']'))).map readByte)).map .block
    else none
  | _ =>
    match wordsOf cs with
    | [w] => readWord w
    | _ => none

/-- A line of text: what stands behind `;` is a comment, the mnemonic is the first word, and the operands are
separated by commas (R102). -/
def readLine (text : String) : Option AsmLine :=
  let line := (text.toList.takeWhile (· != ';')).dropWhile (· == ' ')
  let rest := line.dropWhile (· != ' ')
  match readMnemonic (line.takeWhile (· != ' ')) with
  | none => none
  | some m =>
    if (wordsOf rest).isEmpty then some ⟨m, []⟩
    else (allOf ((splitBy ',' rest).map readOperand)).map (⟨m, ·⟩)

/-- The command a line of text stands for, if it stands for one (R102). -/
def assembleText (text : String) : Option Instr :=
  match readLine text with
  | some l => assemble l
  | none => none

end Sys2Proof.Machine
end

