-- ==== Sys2Proof/Safety.lean ====
section
/-! DEFINITION. The terms that claims about the machine use: what a command answers, the invariants of R31,
which blocks may be touched (R160, R258), and how far a write or a read has come (R183, R187, R223). -/

namespace Sys2Proof.Machine

/-! ## What a command does -/

/-- The command `i` completes: the unit's record becomes `u`, the response `r` is given, and nothing else in
the machine changes. -/
abbrev Answers (i : Instr) (s : State) (u : UnitState) (r : Response) : Prop :=
  exec i s = .next { s with unit := u, rsps := r :: s.rsps }

/-- The command on the port is the next thing the machine runs: no reset is asserted, no operation is in
progress, and the host's first entry is `(cw, blk)`. -/
abbrev OnPort (s : State) (cw : CmdWord) (blk : Block) (rest : List HostAct) : Prop :=
  s.rst = false ∧ s.seq = .idle ∧ s.host = .command cw blk :: rest

/-- Words with opcode `op` whose `Z` is not zero or whose `ARG` is `bad` are answered `rsp(8, 0, 0)` and
change nothing (R100). -/
abbrev RefusesIllegal (op : Nat) (bad : Nat → Prop) : Prop :=
  ∀ (cw : CmdWord) (blk : Block) (s : State), cw.toNat / 2 ^ 28 = op →
    (cw.toNat / 2 ^ 16 % 2 ^ 12 ≠ 0 ∨ bad (cw.toNat % 2 ^ 16)) →
    runCommand cw blk s = .next { s with rsps := ⟨8, 0, 0⟩ :: s.rsps }

/-- The illegal command words of R97 and R100, said of the word as a number. -/
def IllegalWord (cw : CmdWord) : Prop :=
  let op := cw.toNat / 2 ^ 28
  let arg := cw.toNat % 2 ^ 16
  op = 0 ∨ cw.toNat / 2 ^ 16 % 2 ^ 12 ≠ 0 ∨
  ((op = 0x4 ∨ op = 0x7 ∨ op = 0xA ∨ op = 0xC ∨ op = 0xD ∨ op = 0xF) ∧ arg ≠ 0) ∨
  (op = 0x5 ∧ 15 < arg) ∨
  (op = 0x9 ∧ (arg / 2 ^ 14 = 3 ∨ arg / 2 ^ 13 % 2 = 1)) ∨
  (op = 0xB ∧ 1 < arg) ∨
  (op = 0xE ∧ (arg % 8 = 0 ∨ arg % 8 = 7 ∨ 7 < arg))

/-- `pack(i, A, S, D, E)` of R152 as a number; a flag is 0 or 1. -/
def yieldWord (i a s d e : Nat) : Nat :=
  i + 2 ^ 8 * (i / 4) + 2 ^ 16 * (i % 4) + 2 ^ 24 * a + 2 ^ 25 * s + 2 ^ 26 * d + 2 ^ 27 * e

/-- The iterator commands that are out of order in a state of the unit (R161). -/
def outOfOrder (u : UnitState) : Instr → Prop
  | .wnext => u.phase = .done ∨ u.phase = .failed
  | .wstop => u.phase = .done ∨ u.phase = .failed
  | .wfail _ => u.phase = .done ∨ u.phase = .failed
  | .wauth _ => ¬(u.phase = .authenticating ∧ u.pend = true)
  | .wack => ¬(u.phase = .transferring ∧ u.pend = true)
  | _ => False

/-- The commands that read no state and write no state (R39). -/
def isPure : Instr → Bool
  | .locate _ => true
  | .istrl _ => true
  | .isstart _ => true
  | .ffs _ => true
  | .dechdr _ _ => true
  | .enchdr _ => true
  | .fterm _ => true
  | .bufsz _ => true
  | _ => false

/-! ## The invariants of the unit (R31) -/

/-- The invariants of R31 with those of R27, R29 and R30, for a given `LAST_BLOCK`. "After the first `WINIT`"
is `bidx ≠ 0`: before it the record is the reset record. -/
structure UnitInv (last : BitVec 8) (u : UnitState) : Prop where
  /-- R31(a) -/
  atSectorStart : u.phase = .authenticating → u.bidx.toNat % 4 = 0 ∧ u.bidx.toNat ≤ last.toNat + 1
  /-- R31(b), R31(c) -/
  pendLegal : u.pend = true →
    u.phase.active = true ∧ u.bidx.toNat ≤ last.toNat ∧ u.bidx.toNat % 4 ≠ 3 ∧
      (u.mode = modeFormat ∨ u.bcnt.toNat < u.limit.toNat) ∧
      (u.phase = .authenticating → u.bidx.toNat % 4 = 0)
  /-- R31(d) -/
  wholeBlocks : u.bcnt.toNat % 16 = 0 ∧ u.limit.toNat % 16 = 0
  /-- R31(e) -/
  withinBudget : u.mode ≠ modeFormat → u.bcnt.toNat ≤ u.limit.toNat
  /-- R31(f), R29 -/
  errIffFailed : (u.err ≠ 0 ↔ u.phase = .failed) ∧ (u.err = 0 → u.errblk = 0) ∧ u.err ≠ 7
  /-- R30: the block of the error is the one under the cursor -/
  errblkIsCursor : u.phase = .failed → u.errblk = u.bidx
  /-- R31(g) -/
  cursorRange : u.bidx ≠ 0 → 4 ≤ u.bidx.toNat ∧ u.bidx.toNat ≤ last.toNat + 1
  /-- R31(h) -/
  counterTiedToCursor : u.bidx ≠ 0 →
    u.bcnt.toNat = 16 * (3 * ((u.bidx.toNat - 4) / 4) + u.bidx.toNat % 4)
  /-- R31(i) -/
  modeLegal : u.mode ≠ 3
  /-- before the first `WINIT` (R38) -/
  notStarted : u.bidx = 0 → u = .reset

/-- The invariant of the unit inside the machine, with the parameters in their range (R10, R31). -/
structure State.UnitOk (s : State) : Prop where
  legal : s.params.Legal
  unit : UnitInv s.params.lastBlock s.unit

/-! ## Which blocks are touched (R51, R160, R258) -/

/-- A data block of sectors 1 to 15 (R51). -/
abbrev isDataBlock (n : Nat) : Prop := 4 ≤ n ∧ n ≤ 63 ∧ n % 4 ≠ 3

/-- The first block of a sector 1 to 15 (R51). -/
abbrev isSectorHead (n : Nat) : Prop := 4 ≤ n ∧ n ≤ 63 ∧ n % 4 = 0

/-- A reader call that touches no trailer and no block of sector 0 (R160a, R258). -/
def ReaderCall.touchesDataOnly : ReaderCall → Prop
  | .auth _ blk _ _ _ => isSectorHead blk.toNat
  | .read blk _ => isDataBlock blk.toNat
  | .write blk _ _ => isDataBlock blk.toNat

/-- The sector of the newest authentication among the calls (newest first), if it was granted. -/
def authedSector : List ReaderCall → Option Nat
  | [] => none
  | .auth _ blk _ _ ok :: _ => if ok then some (blk.toNat / 4) else none
  | .read _ _ :: cs => authedSector cs
  | .write _ _ _ :: cs => authedSector cs

/-- Every transfer among the calls came after an authentication of its sector that was granted, with no
other authentication in between (R160b). -/
def transfersAuthenticated : List ReaderCall → Prop
  | [] => True
  | .auth _ _ _ _ _ :: cs => transfersAuthenticated cs
  | .read blk _ :: cs => authedSector cs = some (blk.toNat / 4) ∧ transfersAuthenticated cs
  | .write blk _ _ :: cs => authedSector cs = some (blk.toNat / 4) ∧ transfersAuthenticated cs

/-- What the host asks for keeps to the yields: it is not a reader call of its own (R103, R160, R181). -/
def HostAct.keepsToYields : HostAct → Bool
  | .auth _ _ => false
  | .read _ => false
  | .write _ _ => false
  | _ => true

/-- The sequencer's next reader call is the one the unit asked for: `auth` is the sector of the newest granted
authentication. -/
def Seq.callLegal (u : UnitState) (auth : Option Nat) : Seq → Prop
  | .setupRead _ _ => auth = some 1
  | .walkNext _ => u.phase = .transferring → auth = some (u.bidx.toNat / 4)
  | .walkAuth _ blk =>
    isSectorHead blk.toNat ∧ u.phase ≠ .transferring ∧ (u.phase = .authenticating → u.bidx = blk)
  | .walkTell _ blk ok =>
    u.phase ≠ .transferring ∧ (u.phase = .authenticating → u.bidx = blk) ∧
      (ok = true → auth = some (blk.toNat / 4))
  | .walkData _ blk _ =>
    isDataBlock blk.toNat ∧ auth = some (blk.toNat / 4) ∧
      (u.phase = .transferring → auth = some (u.bidx.toNat / 4))
  | .walkTerm _ _ => u.phase = .transferring → auth = some (u.bidx.toNat / 4)
  | .walkAck _ => u.phase = .transferring → auth = some (u.bidx.toNat / 4)
  | _ => True

/-- The invariant behind R160(a), R160(b), R246 and R258: the unit is in order, every reader call so far
touched only blocks it may touch and only in an authenticated sector, and the next one will. -/
structure State.TransfersOk (s : State) : Prop where
  unitOk : s.UnitOk
  hostKeeps : ∀ a ∈ s.host, a.keepsToYields = true
  seqLegal : s.seq.callLegal s.unit (authedSector s.calls)
  callsLegal : ∀ c ∈ s.calls, c.touchesDataOnly
  callsAuthenticated : transfersAuthenticated s.calls

/-! ## How far a write or a format has come (R186, R187, R223) -/

/-- What a walk puts into data block number `k`: the chunk of a write (R185), zeros of a format (R186). -/
def Job.content : Job → Nat → Block
  | .read _ _ _, _ => 0
  | .write chunks, k => chunks.getD k 0
  | .format, _ => 0

/-- The job transfers to the card. -/
def Job.writes : Job → Bool
  | .read _ _ _ => false
  | .write _ => true
  | .format => true

/-- The medium `m` is the medium `m0` with the first `n` data blocks filled by the job, whatever the blocks
that are `loose` hold (R52, R187, R223). -/
structure BlocksFilled (m0 m : Memory) (job : Job) (n : Nat) (loose : Nat → Prop) : Prop where
  new : ∀ k, k < n → readBlock m (dataBlockIndex k) = job.content k
  old : ∀ a, (∀ k, k < n → a / 16 ≠ dataBlockIndex k) → ¬loose (a / 16) → memByte m a = memByte m0 a

/-- The reader's side makes no change of its own to the card (exclusive access, R62). -/
def quietReader (r : List ReaderInput) : Prop := ∀ x ∈ r, ∀ blk b, x ≠ .cardSets blk b

/-- The unit is in the middle of the walk of a job; the budget of a write is its number of chunks (R185). -/
structure InWalkOf (job : Job) (u : UnitState) : Prop where
  active : u.phase.active = true
  mode : u.mode = job.mode
  limit : ∀ chunks, job = .write chunks → u.limit.toNat = 16 * chunks.length

/-- The unit waits for the outcome of an authentication of the block under its cursor (R24). -/
structure AwaitsAuth (u : UnitState) (blk : BitVec 8) : Prop where
  phase : u.phase = .authenticating
  pend : u.pend = true
  cursor : blk = u.bidx

/-- The unit waits for the outcome of a transfer (R24). -/
structure AwaitsTransfer (u : UnitState) : Prop where
  phase : u.phase = .transferring
  pend : u.pend = true

/-- The walk of a job has filled all it had to: every chunk, or every data block up to `LAST_BLOCK` (R185, R186). -/
def Job.complete (last : BitVec 8) (u : UnitState) : Job → Prop
  | .read _ _ _ => False
  | .write chunks => u.bcnt.toNat = 16 * chunks.length
  | .format => u.bidx.toNat = last.toNat + 1

/-- The walk has failed with the error `kind` at block `blk`, as the unit has latched it (R29, R30, R222). -/
structure FailedAs (u : UnitState) (kind : BitVec 4) (blk : BitVec 8) : Prop where
  phase : u.phase = .failed
  kind : kind = u.err.setWidth 4
  block : blk = u.errblk

/-- The newest reader call was a `MemWrite` of block `blk` that was refused (R60). -/
def refusedWrite (blk : BitVec 8) (calls : List ReaderCall) : Prop :=
  ∃ data, calls.head? = some (.write blk data false)

/-- What a failed write or format leaves: only a refused `MemWrite` leaves its block loose (R56); after a refused
authentication (R212) and a write that ran past `LAST_BLOCK` (R213) every block that was not filled is as it
was. -/
def FailureLeaves (m0 : Memory) (job : Job) (n : Nat) (s : State) (kind : BitVec 4) (blk : BitVec 8) : Prop :=
  (kind = 1 ∧ BlocksFilled m0 s.medium job n fun _ => False) ∨
  (kind = 2 ∧ (∃ chunks, job = .write chunks) ∧ blk.toNat = s.params.lastBlock.toNat + 1 ∧
    BlocksFilled m0 s.medium job n fun _ => False) ∨
  (kind = 2 ∧ refusedWrite blk s.calls ∧ BlocksFilled m0 s.medium job n fun b => b = blk.toNat)

/-- Where a write or a format over the medium `m0` stands (R185, R186, R187, R223). -/
def WriteProgress (m0 : Memory) (job : Job) (s : State) : Prop :=
  let n := s.unit.bcnt.toNat / 16
  match s.seq with
  | .walkInit w nblk =>
    w.job = job ∧ (∀ chunks, job = .write chunks → nblk.toNat = chunks.length) ∧
      BlocksFilled m0 s.medium job 0 fun _ => False
  | .walkNext w => w.job = job ∧ InWalkOf job s.unit ∧ BlocksFilled m0 s.medium job n fun _ => False
  | .walkAuth w blk =>
    w.job = job ∧ InWalkOf job s.unit ∧ AwaitsAuth s.unit blk ∧
      BlocksFilled m0 s.medium job n fun _ => False
  | .walkTell w blk _ =>
    w.job = job ∧ InWalkOf job s.unit ∧ AwaitsAuth s.unit blk ∧
      BlocksFilled m0 s.medium job n fun _ => False
  | .walkData w blk off =>
    w.job = job ∧ InWalkOf job s.unit ∧ AwaitsTransfer s.unit ∧ blk = s.unit.bidx ∧ off = s.unit.bcnt ∧
      BlocksFilled m0 s.medium job n fun _ => False
  | .walkAck w =>
    w.job = job ∧ InWalkOf job s.unit ∧ AwaitsTransfer s.unit ∧
      BlocksFilled m0 s.medium job (n + 1) fun _ => False
  | .walkFail w kind blk =>
    w.job = job ∧ InWalkOf job s.unit ∧ AwaitsTransfer s.unit ∧ kind = 2 ∧ blk = s.unit.bidx ∧
      refusedWrite blk s.calls ∧ BlocksFilled m0 s.medium job n fun b => b = s.unit.bidx.toNat
  | .idle =>
    match s.results with
    | .done :: _ =>
      s.unit.phase = .done ∧ BlocksFilled m0 s.medium job n (fun _ => False) ∧
        job.complete s.params.lastBlock s.unit
    | .failed kind (some blk) :: _ => FailedAs s.unit kind blk ∧ FailureLeaves m0 job n s kind blk
    | _ => False
  | _ => False

/-- The invariant of a write or a format over the medium `m0`: the unit is in order, the medium is canonical,
no reset is asserted, nothing else is asked for, nothing else changes the card, and the blocks yielded so far
are filled. -/
structure State.WriteOk (m0 : Memory) (job : Job) (s : State) : Prop where
  unitOk : s.UnitOk
  writing : job.writes = true
  canonical : Memory.wf s.medium = true
  noReset : s.rst = false
  nothingElse : s.host = []
  exclusive : quietReader s.reader
  progress : WriteProgress m0 job s

/-! ## How far a read has come (R183) -/

/-- The bytes of the first `n` data blocks in walk order (R35c, R52). -/
def dataBytes (m : Memory) (n : Nat) : List Byte :=
  (List.range n).flatMap fun k => blockBytes (readBlock m (dataBlockIndex k))

/-- The unit is in the middle of a READ walk. -/
structure InReadWalk (u : UnitState) : Prop where
  active : u.phase.active = true
  mode : u.mode = modeRead

/-- The buffer of a read after `n` data blocks: their bytes, none of which is the terminator (R183, R247). -/
structure ReadBuffer (m : Memory) (n : Nat) (buf : List Byte) : Prop where
  bytes : buf = dataBytes m n
  clean : ∀ v ∈ buf, v ≠ Config.tlvTerminator

/-- What the read path keeps of a block in which it found the terminator: the bytes up to the first one, which
is kept itself unless it is at offset 15 (R183, R249). -/
def KeptOf (b : Block) (kept : List Byte) : Prop :=
  ∃ t, t < 16 ∧ blockByte b t = Config.tlvTerminator ∧ (∀ i, i < t → blockByte b i ≠ Config.tlvTerminator) ∧
    kept = (blockBytes b).take (if t < 15 then t + 1 else 15)

/-- The buffer of a read that met the terminator after `n` data blocks: those blocks, and what is kept of the
block of the terminator (R183). -/
def TerminatedBuffer (m : Memory) (n : Nat) (buf : List Byte) : Prop :=
  ∃ front kept, ReadBuffer m n front ∧ KeptOf (readBlock m (dataBlockIndex n)) kept ∧ buf = front ++ kept

/-- The result of a read whose buffer without its first bytes is `payload`: the bytes themselves, or for
`readUri` what the record codec makes of them, `CodecFailure` (6) if it rejects them (R184, R194). -/
def ReadResult (uri : Bool) (payload : List Byte) (r : OpResult) : Prop :=
  if uri = true then
    (∃ record, Config.decodeMessage payload = some record ∧ r = .uri record.uri) ∨
      (Config.decodeMessage payload = none ∧ r = .failed 6 none)
  else r = .bytes payload

/-- Where a read stands (R183, R184). -/
def ReadProgress (start : Nat) (uri : Bool) (s : State) : Prop :=
  let n := s.unit.bcnt.toNat / 16
  match s.seq with
  | .walkInit w _ => w.job = .read start [] uri
  | .walkNext w => (∃ buf, w.job = .read start buf uri ∧ ReadBuffer s.medium n buf) ∧ InReadWalk s.unit
  | .walkAuth w blk =>
    (∃ buf, w.job = .read start buf uri ∧ ReadBuffer s.medium n buf) ∧ InReadWalk s.unit ∧
      AwaitsAuth s.unit blk
  | .walkTell w blk _ =>
    (∃ buf, w.job = .read start buf uri ∧ ReadBuffer s.medium n buf) ∧ InReadWalk s.unit ∧
      AwaitsAuth s.unit blk
  | .walkData w blk off =>
    (∃ buf, w.job = .read start buf uri ∧ ReadBuffer s.medium n buf ∧ buf.length = off.toNat) ∧
      InReadWalk s.unit ∧ AwaitsTransfer s.unit ∧ blk = s.unit.bidx ∧ off = s.unit.bcnt
  | .walkTerm w b =>
    (∃ buf, w.job = .read start buf uri ∧ ReadBuffer s.medium n buf) ∧ InReadWalk s.unit ∧
      AwaitsTransfer s.unit ∧ b = readBlock s.medium (dataBlockIndex n)
  | .walkAck w =>
    (∃ buf, w.job = .read start buf uri ∧ ReadBuffer s.medium (n + 1) buf) ∧ InReadWalk s.unit ∧
      AwaitsTransfer s.unit
  | .walkStop w => (∃ buf, w.job = .read start buf uri ∧ TerminatedBuffer s.medium n buf) ∧ InReadWalk s.unit
  | .walkFail w kind blk =>
    (∃ buf, w.job = .read start buf uri) ∧ InReadWalk s.unit ∧ AwaitsTransfer s.unit ∧ kind = 2 ∧
      blk = s.unit.bidx
  | .idle =>
    match s.results with
    | r :: _ =>
      (∃ buf, s.unit.phase = .done ∧ ReadResult uri (buf.drop start) r ∧
        ((ReadBuffer s.medium n buf ∧ s.unit.limit.toNat ≤ s.unit.bcnt.toNat) ∨
          TerminatedBuffer s.medium n buf)) ∨
      ∃ kind blk, r = .failed kind (some blk) ∧ FailedAs s.unit kind blk ∧
        (kind = 1 ∨ kind = 2 ∨ (kind = 5 ∧ blk.toNat = s.params.lastBlock.toNat + 1))
    | [] => False
  | _ => False

/-- The invariant of a read over the medium `m0`: the unit is in order, no reset is asserted, nothing else is
asked for, nothing changes the card, and the buffer is what the rules say. -/
structure State.ReadOk (m0 : Memory) (start : Nat) (uri : Bool) (s : State) : Prop where
  untouched : s.medium = m0
  unitOk : s.UnitOk
  noReset : s.rst = false
  nothingElse : s.host = []
  exclusive : quietReader s.reader
  progress : ReadProgress start uri s

end Sys2Proof.Machine
end

