-- ==== Sys2Proof/Certificates/Slice0/Obligations.lean ====
section
/-! DEFINITION. The statements for the provers. -/

open Sys2Proof Sys2Proof.Machine

/-! ## Encoding -/

/-- Decoding an encoded command gives it back, with every operand at every value its field admits
(R93, R95, R96, R97, R101, R104). -/
def Obligations.DecodeOfEncode : Prop :=
  ∀ i : Instr, decode (encode i).1 (encode i).2 = .ok i

/-- A command word that decodes is the word of the command it decodes to, and so is the block operand where
it is meaningful: no bit of a legal command is dropped (R93, R95, R97). -/
def Obligations.EncodeOfDecode : Prop :=
  ∀ (cw : CmdWord) (blk : Block) (i : Instr), decode cw blk = .ok i →
    (encode i).1 = cw ∧ (i.usesBlk = true → (encode i).2 = blk)

/-- A few words of the spec's vectors decode to the commands they stand for (95_test_vectors.md). -/
def Obligations.SpecWordsDecode : Prop :=
  ∀ blk : Block,
    decode 0x10000004 blk = .ok (.locate 4) ∧ decode 0x50000002 blk = .ok (.dechdr 2 blk) ∧
    decode 0x8000012C blk = .ok (.bufsz 300) ∧ decode 0x90004005 blk = .ok (.winit 1 5) ∧
    decode 0xB0000001 blk = .ok (.wauth true) ∧ decode 0xE0000002 blk = .ok (.wfail 2)

/-- Exactly the illegal command words are answered `rsp(8, 0, 0)`, with no change of state; any other word
is answered with another status (R100). -/
def Obligations.IllegalWordsAnsweredEight : Prop :=
  ∀ (s : State) (cw : CmdWord) (blk : Block) (rest : List HostAct), OnPort s cw blk rest →
    (IllegalWord cw → step s = .next { s with host := rest, rsps := ⟨8, 0, 0⟩ :: s.rsps }) ∧
    (¬IllegalWord cw → ∃ t r, step s = .next t ∧ t.rsps = r :: s.rsps ∧ r.st ≠ 8)

/-- What is written in the assembler form stands for the same command (R102). -/
def Obligations.AssembleOfDisassemble : Prop :=
  ∀ i : Instr, i.wellFormed = true → assemble (disassemble i) = some i

/-! ## The step -/

/-- When the command on the port decodes to `i`, the step is `exec` of `i` once the host's entry is taken
off (R16, R94). -/
def Obligations.StepRunsTheDecodedCommand : Prop :=
  ∀ (s : State) (cw : CmdWord) (blk : Block) (rest : List HostAct) (i : Instr), OnPort s cw blk rest →
    decode cw blk = .ok i → step s = exec i { s with host := rest }

/-- With nothing asked for, no operation in progress and no reset, the machine waits (R242). -/
def Obligations.WaitsForTheFirstCommand : Prop :=
  ∀ s : State, s.rst = false → s.seq = .idle → s.host = [] → step s = .next s

/-- Every command completes with exactly one response, and touches nothing but the unit's record and the
response port: every byte of the medium, the parameters, the reader's side, the sequencer and the host's list
are as before (R15, R35a, R94, R259). -/
def Obligations.EveryCommandAnswersOnce : Prop :=
  ∀ (i : Instr) (s : State), ∃ t r, exec i s = .next t ∧ t.rsps = r :: s.rsps ∧
    (∀ a, memByte t.medium a = memByte s.medium a) ∧ t.medium = s.medium ∧ t.params = s.params ∧
    t.rst = s.rst ∧ t.host = s.host ∧ t.seq = s.seq ∧ t.reader = s.reader ∧ t.calls = s.calls ∧
    t.results = s.results

/-- The pure commands and `WSTAT` write no state, and neither does a refused command (status 8 or 9): what the spec
derives from the command rules (R39). -/
def Obligations.PureAndRefusedCommandsWriteNoState : Prop :=
  ∀ (i : Instr) (s t : State) (r : Response), exec i s = .next t → t.rsps = r :: s.rsps →
    (isPure i = true ∨ i = .wstat ∨ r.st = 8 ∨ r.st = 9) → t.unit = s.unit

/-- The pure commands read no state either: their response is the same in every state, as the spec derives
(R39). -/
def Obligations.PureCommandsReadNoState : Prop :=
  ∀ (i : Instr) (s s' t t' : State), isPure i = true → exec i s = .next t → exec i s' = .next t' →
    t.lastRsp = t'.lastRsp

/-- Every response carries a status of R211, never 7 nor 10 to 15; a status other than 0 comes with
`V0 = V1 = 0`, except that `WNEXT` at the end of the medium returns the block index in `V0[7:0]` (R98). -/
def Obligations.ResponsesCarryNamedStatuses : Prop :=
  ∀ (i : Instr) (s t : State) (r : Response), exec i s = .next t → t.rsps = r :: s.rsps →
    (r.st.toNat ≤ 6 ∨ r.st = 8 ∨ r.st = 9) ∧
    (r.st ≠ 0 → (r.v0 = 0 ∧ r.v1 = 0) ∨
      (i = .wnext ∧ (r.st = 2 ∨ r.st = 5) ∧ r.v0.toNat = s.unit.bidx.toNat ∧ r.v1 = 0))

/-! ## Sector geometry -/

/-- `LOCATE`: the sector is the index div 4 and the sub-block the index mod 4, for every index; the word, the
ignored block, and what is illegal (R110). -/
def Obligations.LocateMapsTheBlockIndex : Prop :=
  (∀ (n : Arg) (s : State), ∃ r, Answers (.locate n) s s.unit r ∧ r.st = 0 ∧
    r.v0.toNat = n.toNat / 4 ∧ r.v1.toNat = n.toNat % 4) ∧
  (∀ (n : Arg) (blk : Block), decode (0x10000000#32 ||| n.setWidth 32) blk = .ok (.locate n)) ∧
  RefusesIllegal 0x1 fun _ => False

/-- `ISTRL`: 1 for sub-block 3 and 0 for every other operand (R111). -/
def Obligations.IstrlIsOneForThree : Prop :=
  (∀ (n : Arg) (s : State), ∃ r, Answers (.istrl n) s s.unit r ∧ r.st = 0 ∧
    r.v0.toNat = (if n.toNat = 3 then 1 else 0) ∧ r.v1 = 0) ∧
  (∀ (n : Arg) (blk : Block), decode (0x20000000#32 ||| n.setWidth 32) blk = .ok (.istrl n)) ∧
  RefusesIllegal 0x2 fun _ => False

/-- `ISSTART`: 1 for sub-block 0 and 0 for every other operand (R112). -/
def Obligations.IsstartIsOneForZero : Prop :=
  (∀ (n : Arg) (s : State), ∃ r, Answers (.isstart n) s s.unit r ∧ r.st = 0 ∧
    r.v0.toNat = (if n.toNat = 0 then 1 else 0) ∧ r.v1 = 0) ∧
  (∀ (n : Arg) (blk : Block), decode (0x30000000#32 ||| n.setWidth 32) blk = .ok (.isstart n)) ∧
  RefusesIllegal 0x3 fun _ => False

/-- The laws of the family: the index is four times the sector plus the sub-block, the sub-block is at most 3,
and what `ISTRL` and `ISSTART` answer for it is never 1 for both: consequences that the spec draws
(R113). -/
def Obligations.GeometryPartitionsTheBlocks : Prop :=
  ∀ (n : Arg) (s a : State), exec (.locate n) s = .next a →
    ∃ b c, exec (.istrl (a.lastRsp.v1.setWidth 16)) s = .next b ∧
      exec (.isstart (a.lastRsp.v1.setWidth 16)) s = .next c ∧
      n.toNat = 4 * a.lastRsp.v0.toNat + a.lastRsp.v1.toNat ∧ a.lastRsp.v1.toNat ≤ 3 ∧
      (b.lastRsp.v0 = 1 ↔ n.toNat % 4 = 3) ∧ (c.lastRsp.v0 = 1 ↔ n.toNat % 4 = 0) ∧
      ¬(b.lastRsp.v0 = 1 ∧ c.lastRsp.v0 = 1)

/-! ## TLV codec -/

/-- `FFS`: the offset of the first byte that is not zero if it is `03`, `UnknownTlvType` if it is another byte,
`MalformedTlv` if every byte is zero (R121). -/
def Obligations.FfsFindsTheFirstTypeByte : Prop :=
  (∀ (b : Block) (s : State) (o : Nat), o < 16 → (∀ i, i < o → blockByte b i = 0x00) →
    (blockByte b o = 0x03 → Answers (.ffs b) s s.unit ⟨0, BitVec.ofNat 32 o, 0⟩) ∧
    (blockByte b o ≠ 0x00 → blockByte b o ≠ 0x03 → Answers (.ffs b) s s.unit ⟨4, 0, 0⟩)) ∧
  (∀ (b : Block) (s : State), (∀ i, i < 16 → blockByte b i = 0x00) → Answers (.ffs b) s s.unit ⟨3, 0, 0⟩) ∧
  (∀ b : Block, decode 0x40000000 b = .ok (.ffs b)) ∧
  RefusesIllegal 0x4 fun arg => arg ≠ 0

/-- `DECHDR`: the two forms and the three causes of `MalformedTlv`, in the order of the rule (R122). -/
def Obligations.DechdrDecodesBothForms : Prop :=
  (∀ (o : BitVec 4) (b : Block) (s : State),
    (blockByte b o.toNat ≠ 0x03 → Answers (.dechdr o b) s s.unit ⟨3, 0, 0⟩) ∧
    (blockByte b o.toNat = 0x03 → o.toNat = 15 → Answers (.dechdr o b) s s.unit ⟨3, 0, 0⟩) ∧
    (blockByte b o.toNat = 0x03 → o.toNat ≤ 14 → blockByte b (o.toNat + 1) ≠ 0xFF →
      ∃ r, Answers (.dechdr o b) s s.unit r ∧ r.st = 0 ∧
        r.v0.toNat = (blockByte b (o.toNat + 1)).toNat ∧ r.v1.toNat = o.toNat + 2) ∧
    (blockByte b o.toNat = 0x03 → 13 ≤ o.toNat → o.toNat ≤ 14 → blockByte b (o.toNat + 1) = 0xFF →
      Answers (.dechdr o b) s s.unit ⟨3, 0, 0⟩) ∧
    (blockByte b o.toNat = 0x03 → o.toNat ≤ 12 → blockByte b (o.toNat + 1) = 0xFF →
      ∃ r, Answers (.dechdr o b) s s.unit r ∧ r.st = 0 ∧
        r.v0.toNat = 256 * (blockByte b (o.toNat + 2)).toNat + (blockByte b (o.toNat + 3)).toNat ∧
        r.v1.toNat = o.toNat + 4 + 2 ^ 8)) ∧
  (∀ (o : BitVec 4) (b : Block), decode (0x50000000#32 ||| o.setWidth 32) b = .ok (.dechdr o b)) ∧
  RefusesIllegal 0x5 fun arg => 15 < arg

/-- `ENCHDR`: `00 00 03 len` for a length below 255 and `03 FF hi lo` from 255 on, the first byte most
significant in `V0`; `V1` says the form and where the type byte stands (R123). -/
def Obligations.EnchdrEmitsTheHeader : Prop :=
  (∀ (n : Arg) (s : State),
    (n.toNat < 255 → ∃ r, Answers (.enchdr n) s s.unit r ∧ r.st = 0 ∧
      r.v0.toNat = 0x00000300 + n.toNat ∧ r.v1 = 4) ∧
    (255 ≤ n.toNat → ∃ r, Answers (.enchdr n) s s.unit r ∧ r.st = 0 ∧
      r.v0.toNat = 0x03FF0000 + n.toNat ∧ r.v1 = 1)) ∧
  (∀ (n : Arg) (blk : Block), decode (0x60000000#32 ||| n.setWidth 32) blk = .ok (.enchdr n)) ∧
  RefusesIllegal 0x6 fun _ => False

/-- `FTERM`: the offset of the first `FE` and how many bytes the read path keeps, the `FE` among them unless it
is at offset 15; without an `FE` the whole block (R124). -/
def Obligations.FtermFindsTheFirstTerminator : Prop :=
  (∀ (b : Block) (s : State) (t : Nat), t < 16 → (∀ i, i < t → blockByte b i ≠ 0xFE) → blockByte b t = 0xFE →
    ∃ r, Answers (.fterm b) s s.unit r ∧ r.st = 0 ∧ r.v0.toNat = t ∧
      r.v1.toNat = 1 + 2 ^ 8 * (if t < 15 then t + 1 else 15)) ∧
  (∀ (b : Block) (s : State), (∀ i, i < 16 → blockByte b i ≠ 0xFE) →
    Answers (.fterm b) s s.unit ⟨0, 0, 0x1000⟩) ∧
  (∀ b : Block, decode 0x70000000 b = .ok (.fterm b)) ∧
  RefusesIllegal 0x7 fun arg => arg ≠ 0

/-- Round trip: in any block that begins with the header of `n`, `FFS` finds the type byte at 2 (short) or 0
(long), and `DECHDR` there gives back `n` with the payload at offset 4: a law the spec derives (R125). -/
def Obligations.HeaderRoundTrip : Prop :=
  ∀ (n : Arg) (b : Block) (s a : State), exec (.enchdr n) s = .next a →
    (∀ i, i < 4 → blockByte b i = a.lastRsp.header.getD i 0) →
    ∃ f d, exec (.ffs b) s = .next f ∧ exec (.dechdr f.lastRsp.frameOffset b) s = .next d ∧
      f.lastRsp.st = 0 ∧ f.lastRsp.v0.toNat = (if n.toNat < 255 then 2 else 0) ∧
      d.lastRsp.st = 0 ∧ d.lastRsp.payloadLength = n ∧ d.lastRsp.payloadStart = 4

/-- Where `DECHDR` succeeds with length `n`, `ENCHDR n` has the same form and the same header bytes exactly
when the header was canonical, that is not a long header with a length below 255: a law the spec derives
(R126). -/
def Obligations.HeaderCanonicity : Prop :=
  ∀ (b : Block) (o : BitVec 4) (s d e : State), exec (.dechdr o b) s = .next d → d.lastRsp.st = 0 →
    exec (.enchdr d.lastRsp.payloadLength) s = .next e →
    ((e.lastRsp.encodedLong = d.lastRsp.decodedLong ∧
        ∀ i, i < (if d.lastRsp.decodedLong then 4 else 2) →
          blockByte b (o.toNat + i) = e.lastRsp.header.getD (e.lastRsp.frameStart.toNat + i) 0) ↔
      ¬(d.lastRsp.decodedLong = true ∧ d.lastRsp.payloadLength.toNat < 255))

/-- The frame: its length is the payload's plus 5, it begins with the four header bytes, holds the payload
from offset 4 on, and ends with the terminator (R85, R128, R129). -/
def Obligations.FrameLayout : Prop :=
  ∀ p : List Byte, p.length ≤ 65535 →
    (frame p).length = p.length + 5 ∧
    (p.length < 255 → (frame p).take 4 = [0x00, 0x00, 0x03, BitVec.ofNat 8 p.length]) ∧
    (255 ≤ p.length → (frame p).take 4 =
      [0x03, 0xFF, BitVec.ofNat 8 (p.length / 256), BitVec.ofNat 8 (p.length % 256)]) ∧
    (∀ i, i < p.length → (frame p).getD (4 + i) 0 = p.getD i 0) ∧
    (frame p).getD (p.length + 4) 0 = 0xFE

/-- The chunks: `(len + 5 + 15) div 16` of them, byte `j` of chunk `k` is frame byte `16 k + j`, zero beyond
the frame's end (R86). -/
def Obligations.ChunksCoverTheFrame : Prop :=
  ∀ p : List Byte, p.length ≤ 65535 →
    (frameChunks p).length = (p.length + 5 + 15) / 16 ∧
    ∀ k j, k < (frameChunks p).length → j < 16 →
      blockByte ((frameChunks p).getD k 0) j = (frame p).getD (16 * k + j) 0

/-! ## Buffer sizer -/

/-- `BUFSZ`: the smallest multiple of 16 that is at least the length plus 3 (below 255) or plus 5 (R140). -/
def Obligations.BufszRoundsUpToBlocks : Prop :=
  (∀ (n : Arg) (s : State), ∃ r, Answers (.bufsz n) s s.unit r ∧ r.st = 0 ∧ r.v1 = 0 ∧
    r.v0.toNat % 16 = 0 ∧
    (n.toNat < 255 → n.toNat + 3 ≤ r.v0.toNat ∧ r.v0.toNat < n.toNat + 3 + 16) ∧
    (255 ≤ n.toNat → n.toNat + 5 ≤ r.v0.toNat ∧ r.v0.toNat < n.toNat + 5 + 16)) ∧
  (∀ (n : Arg) (blk : Block), decode (0x80000000#32 ||| n.setWidth 32) blk = .ok (.bufsz n)) ∧
  RefusesIllegal 0x8 fun _ => False

/-- The size against the frame as written: the long form is covered exactly; in the short form all but the
lengths 12 and 13 mod 16, where the terminator, and for 13 the last payload byte, lie beyond it: what the spec derives
(R143). -/
def Obligations.BufszAgainstTheFrame : Prop :=
  ∀ (p : List Byte) (s a : State), p.length ≤ 65535 → exec (.bufsz (BitVec.ofNat 16 p.length)) s = .next a →
    (255 ≤ p.length → a.lastRsp.v0.toNat = ceil16 (frame p).length) ∧
    (p.length < 255 → p.length % 16 ≠ 12 → p.length % 16 ≠ 13 →
      (frame p).length ≤ a.lastRsp.v0.toNat) ∧
    (p.length < 255 → p.length % 16 = 12 → a.lastRsp.v0.toNat = p.length + 4) ∧
    (p.length < 255 → p.length % 16 = 13 → a.lastRsp.v0.toNat = p.length + 3)

/-! ## Block-skip iterator -/

/-- `WINIT`: a walk of a legal mode starts at block 4 in every phase; `MODE = 3` is illegal (R151). -/
def Obligations.WinitStartsAWalk : Prop :=
  (∀ (m : BitVec 2) (k : BitVec 13) (s : State), m ≠ 3 →
    ∃ u, Answers (.winit m k) s u ⟨0, 0, 0⟩ ∧ u.phase = .authenticating ∧ u.pend = false ∧ u.mode = m ∧
      u.bidx = 4 ∧ u.bcnt = 0 ∧ u.limit.toNat = 16 * k.toNat ∧ u.err = 0 ∧ u.errblk = 0) ∧
  (∀ (k : BitVec 13) (s : State), Answers (.winit 3 k) s s.unit ⟨8, 0, 0⟩) ∧
  (∀ (m : BitVec 2) (k : BitVec 13) (blk : Block),
    decode (0x90000000#32 ||| m.setWidth 32 <<< 14 ||| k.setWidth 32) blk = .ok (.winit m k)) ∧
  RefusesIllegal 0x9 fun arg => arg / 2 ^ 14 = 3 ∨ arg / 2 ^ 13 % 2 = 1

/-- `WNEXT`: out of order, budget reached, end of the medium in each mode, authentication, trailer and data
yields, with the whole yield word and the logical offset (R152). -/
def Obligations.WnextYieldsTheNextAction : Prop :=
  (∀ s : State, s.unit.phase = .done ∨ s.unit.phase = .failed → Answers .wnext s s.unit ⟨9, 0, 0⟩) ∧
  (∀ s : State, s.unit.phase.active = true → s.unit.mode ≠ 2 → s.unit.limit.toNat ≤ s.unit.bcnt.toNat →
    ∃ r, Answers .wnext s { s.unit with phase := .done, pend := false } r ∧ r.st = 0 ∧
      r.v0.toNat = yieldWord s.unit.bidx.toNat 0 0 1 0 ∧ r.v1.toNat = s.unit.bcnt.toNat) ∧
  (∀ s : State, s.unit.phase.active = true →
    s.unit.mode = 2 ∨ s.unit.bcnt.toNat < s.unit.limit.toNat →
    s.params.lastBlock.toNat < s.unit.bidx.toNat →
    (s.unit.mode = 2 → ∃ r, Answers .wnext s { s.unit with phase := .done, pend := false } r ∧ r.st = 0 ∧
      r.v0.toNat = yieldWord s.unit.bidx.toNat 0 0 1 1 ∧ r.v1.toNat = s.unit.bcnt.toNat) ∧
    (s.unit.mode = 0 → Answers .wnext s
      { s.unit with phase := .failed, pend := false, err := 5, errblk := s.unit.bidx }
      ⟨5, s.unit.bidx.setWidth 32, 0⟩) ∧
    (s.unit.mode = 1 → Answers .wnext s
      { s.unit with phase := .failed, pend := false, err := 2, errblk := s.unit.bidx }
      ⟨2, s.unit.bidx.setWidth 32, 0⟩)) ∧
  (∀ s : State, s.unit.mode = 2 ∨ s.unit.bcnt.toNat < s.unit.limit.toNat →
    s.unit.bidx.toNat ≤ s.params.lastBlock.toNat →
    (s.unit.phase = .authenticating → ∃ r, Answers .wnext s { s.unit with pend := true } r ∧ r.st = 0 ∧
      r.v0.toNat = yieldWord s.unit.bidx.toNat 1 0 0 0 ∧ r.v1.toNat = s.unit.bcnt.toNat) ∧
    (s.unit.phase = .transferring → s.unit.bidx.toNat % 4 = 3 → ∃ r, Answers .wnext s
      { s.unit with phase := .authenticating, pend := false, bidx := s.unit.bidx + 1 } r ∧ r.st = 0 ∧
      r.v0.toNat = yieldWord s.unit.bidx.toNat 0 1 0 0 ∧ r.v1.toNat = s.unit.bcnt.toNat) ∧
    (s.unit.phase = .transferring → s.unit.bidx.toNat % 4 ≠ 3 → ∃ r, Answers .wnext s
      { s.unit with pend := true } r ∧ r.st = 0 ∧
      r.v0.toNat = yieldWord s.unit.bidx.toNat 0 0 0 0 ∧ r.v1.toNat = s.unit.bcnt.toNat)) ∧
  (∀ blk : Block, decode 0xA0000000 blk = .ok .wnext) ∧
  RefusesIllegal 0xA fun arg => arg ≠ 0

/-- `WAUTH`: the outcome of a pending authentication, in both cases with status 0; out of order otherwise
(R153). -/
def Obligations.WauthReportsTheOutcome : Prop :=
  (∀ s : State, s.unit.phase = .authenticating → s.unit.pend = true →
    Answers (.wauth true) s { s.unit with phase := .transferring, pend := false } ⟨0, 0, 0⟩ ∧
    Answers (.wauth false) s
      { s.unit with phase := .failed, pend := false, err := 1, errblk := s.unit.bidx } ⟨0, 0, 0⟩) ∧
  (∀ (s : State) (ok : Bool), ¬(s.unit.phase = .authenticating ∧ s.unit.pend = true) →
    Answers (.wauth ok) s s.unit ⟨9, 0, 0⟩) ∧
  (∀ blk : Block, decode 0xB0000000 blk = .ok (.wauth false) ∧ decode 0xB0000001 blk = .ok (.wauth true)) ∧
  RefusesIllegal 0xB fun arg => 1 < arg

/-- `WACK`: the cursor moves by one block and the counter by 16 bytes; out of order without a pending transfer
(R154). -/
def Obligations.WackAdvances : Prop :=
  (∀ s : State, s.unit.phase = .transferring → s.unit.pend = true →
    Answers .wack s { s.unit with bcnt := s.unit.bcnt + 16, bidx := s.unit.bidx + 1, pend := false }
      ⟨0, 0, 0⟩) ∧
  (∀ s : State, ¬(s.unit.phase = .transferring ∧ s.unit.pend = true) →
    Answers .wack s s.unit ⟨9, 0, 0⟩) ∧
  (∀ blk : Block, decode 0xC0000000 blk = .ok .wack) ∧
  RefusesIllegal 0xC fun arg => arg ≠ 0

/-- `WSTOP`: an active walk ends in `Done` with cursor and counter kept (R155). -/
def Obligations.WstopEndsTheWalk : Prop :=
  (∀ s : State, s.unit.phase.active = true →
    Answers .wstop s { s.unit with phase := .done, pend := false } ⟨0, 0, 0⟩) ∧
  (∀ s : State, s.unit.phase = .done ∨ s.unit.phase = .failed → Answers .wstop s s.unit ⟨9, 0, 0⟩) ∧
  (∀ blk : Block, decode 0xD0000000 blk = .ok .wstop) ∧
  RefusesIllegal 0xD fun arg => arg ≠ 0

/-- `WFAIL`: an active walk fails with the kind given, at the block under the cursor; a code outside 1 to 6 is
illegal before the phase is looked at (R156). -/
def Obligations.WfailLatchesTheKind : Prop :=
  (∀ (c : BitVec 3) (s : State), c ≠ 0 → c ≠ 7 → s.unit.phase.active = true →
    Answers (.wfail c) s { s.unit with phase := .failed, pend := false, err := c, errblk := s.unit.bidx }
      ⟨0, 0, 0⟩) ∧
  (∀ (c : BitVec 3) (s : State), c ≠ 0 → c ≠ 7 → s.unit.phase = .done ∨ s.unit.phase = .failed →
    Answers (.wfail c) s s.unit ⟨9, 0, 0⟩) ∧
  (∀ (c : BitVec 3) (s : State), c = 0 ∨ c = 7 → Answers (.wfail c) s s.unit ⟨8, 0, 0⟩) ∧
  (∀ (c : BitVec 3) (blk : Block), decode (0xE0000000#32 ||| c.setWidth 32) blk = .ok (.wfail c)) ∧
  RefusesIllegal 0xE fun arg => 7 < arg ∨ arg % 8 = 0 ∨ arg % 8 = 7

/-- `WSTAT`: the whole state in two words, in every phase, changing nothing (R32, R157). -/
def Obligations.WstatReadsTheState : Prop :=
  (∀ s : State, ∃ r, Answers .wstat s s.unit r ∧ r.st = 0 ∧
    r.v0.toNat = s.unit.phase.code.toNat + 2 ^ 2 * s.unit.pend.toNat + 2 ^ 4 * s.unit.mode.toNat +
      2 ^ 8 * s.unit.bidx.toNat + 2 ^ 16 * s.unit.err.toNat + 2 ^ 24 * s.unit.errblk.toNat ∧
    r.v1.toNat = s.unit.bcnt.toNat) ∧
  (∀ blk : Block, decode 0xF0000000 blk = .ok .wstat) ∧
  RefusesIllegal 0xF fun arg => arg ≠ 0

/-- Status 9 is answered exactly by the iterator commands that are out of order, and changes nothing but the
response port (R161). -/
def Obligations.IllegalSequenceExactly : Prop :=
  ∀ (i : Instr) (s t : State) (r : Response), i.wellFormed = true → exec i s = .next t →
    t.rsps = r :: s.rsps →
    (r.st = 9 ↔ outOfOrder s.unit i) ∧
    (outOfOrder s.unit i → t = { s with rsps := ⟨9, 0, 0⟩ :: s.rsps })

/-- The only command that leaves `Done` or `Failed` is `WINIT` (R224). -/
def Obligations.OnlyWinitLeavesAnInactivePhase : Prop :=
  ∀ (i : Instr) (s t : State), s.unit.phase = .done ∨ s.unit.phase = .failed → exec i s = .next t →
    t.unit = s.unit ∨
      ((∃ m k, i = .winit m k) ∧ t.unit.phase = .authenticating ∧ t.unit.bidx = 4 ∧ t.unit.err = 0 ∧
        t.unit.errblk = 0)

/-- Transfers begin only by a `WAUTH 1` that answers a pending authentication: no other command leads into
`Transferring` (R23, R24, R246). -/
def Obligations.OnlyWauthOpensASector : Prop :=
  ∀ (i : Instr) (s t : State), exec i s = .next t → t.unit.phase = .transferring →
    s.unit.phase = .transferring ∨
      (i = .wauth true ∧ s.unit.phase = .authenticating ∧ s.unit.pend = true ∧ t.unit.bidx = s.unit.bidx)

/-- The cursor is written only by `WINIT` (to 4), by `WNEXT` on a trailer and by `WACK`, each time by exactly
one, without wrapping, and stops at `LAST_BLOCK + 1`: what the spec derives (R21). -/
def Obligations.CursorMovesByOne : Prop :=
  ∀ (i : Instr) (s t : State), s.UnitOk → exec i s = .next t →
    t.unit.bidx = s.unit.bidx ∨ ((∃ m k, i = .winit m k) ∧ t.unit.bidx = 4) ∨
      (((i = .wnext ∧ s.unit.bidx.toNat % 4 = 3) ∨ i = .wack) ∧
        t.unit.bidx.toNat = s.unit.bidx.toNat + 1 ∧ t.unit.bidx.toNat ≤ s.params.lastBlock.toNat + 1)

/-- The byte counter rises by 16 at each `WACK` that is in order and at nothing else; `WINIT` clears it, and a
trailer skip does not change it (R27). -/
def Obligations.CounterRisesOnlyByAck : Prop :=
  ∀ (i : Instr) (s t : State), s.UnitOk → exec i s = .next t →
    t.unit.bcnt = s.unit.bcnt ∨ ((∃ m k, i = .winit m k) ∧ t.unit.bcnt = 0) ∨
      (i = .wack ∧ t.unit.bcnt.toNat = s.unit.bcnt.toNat + 16 ∧ t.unit.bcnt.toNat ≤ 720)

/-- Error entry: a command that takes the unit into `Failed` saves a kind and the block under the cursor,
clears `PEND`, and keeps cursor, counter, mode and budget (R222). -/
def Obligations.ErrorEntrySavesKindAndBlock : Prop :=
  ∀ (i : Instr) (s t : State), exec i s = .next t → s.unit.phase ≠ .failed → t.unit.phase = .failed →
    t.unit.err ≠ 0 ∧ t.unit.err ≠ 7 ∧ t.unit.errblk = s.unit.bidx ∧ t.unit.pend = false ∧
      t.unit.bidx = s.unit.bidx ∧ t.unit.bcnt = s.unit.bcnt ∧ t.unit.mode = s.unit.mode ∧
      t.unit.limit = s.unit.limit

/-- `WNEXT` repeated while a yield is pending gives the same yield again and changes nothing (R152). -/
def Obligations.PendingYieldRepeats : Prop :=
  ∀ s t : State, s.UnitOk → s.unit.pend = true → exec .wnext s = .next t →
    t.unit = s.unit ∧ exec .wnext t = .next { t with rsps := t.lastRsp :: t.rsps }

/-- A successful yield without `A`, `S` or `D` names a data block of sectors 1 to 15, inside the walk's range,
in an authenticated sector, and its index is the one that the logical offset has in walk order: what the spec
derives (R159, R160a, R258). -/
def Obligations.DataYieldsNameDataBlocks : Prop :=
  ∀ (s t : State) (r : Response), s.UnitOk → exec .wnext s = .next t → t.rsps = r :: s.rsps → r.st = 0 →
    r.flagA = false → r.flagS = false → r.flagD = false →
    isDataBlock r.blk.toNat ∧ r.blk.toNat ≤ s.params.lastBlock.toNat ∧ s.unit.phase = .transferring ∧
      r.blk.toNat = dataBlockIndex (r.offset.toNat / 16) ∧ r.offset.toNat % 16 = 0

/-! ## The invariants of the unit -/

/-- The reset state meets the invariants of R31, its medium is in canonical form (the model's choice, log 2),
and it meets the invariant behind the protection of the card. -/
def Obligations.ResetMeetsTheInvariants : Prop :=
  State.reset.UnitOk ∧ Memory.wf State.reset.medium = true ∧ State.reset.TransfersOk

/-- Every command keeps the invariants of R31, which the spec derives from the command rules and asks a model
to prove. -/
def Obligations.CommandsKeepTheUnitInvariant : Prop :=
  ∀ (i : Instr) (s t : State), s.UnitOk → exec i s = .next t → t.UnitOk

/-- Every step of the machine keeps the invariants of R31: commands, resets, and the sequencer at work. -/
def Obligations.StepsKeepTheUnitInvariant : Prop :=
  ∀ s t : State, s.UnitOk → step s = .next t → t.UnitOk

/-- No step changes the parameters (R10, R243f). -/
def Obligations.ParametersNeverChange : Prop :=
  ∀ s t : State, step s = .next t → t.params = s.params

/-! ## Reset -/

/-- A reset, asserted on the input or asked for by the host, puts every field of the unit at its value and
touches neither the medium nor the reader (R240, R241). The input as a field is the model's choice (log 1); that an
asserted input is looked at before the operation in progress, and that the sequencer is not told, is the model's
reading (log 18). -/
def Obligations.ResetRestoresTheUnit : Prop :=
  ∃ u : UnitState,
    (u.phase = .done ∧ u.pend = false ∧ u.mode = 0 ∧ u.bidx = 0 ∧ u.bcnt = 0 ∧ u.limit = 0 ∧ u.err = 0 ∧
      u.errblk = 0) ∧
    (∀ s : State, s.rst = true → step s = .next { s with unit := u, rst := false }) ∧
    (∀ (s : State) (rest : List HostAct), s.rst = false → s.seq = .idle → s.host = .reset :: rest →
      step s = .next { s with unit := u, host := rest })

/-- Right after reset `WSTAT` answers `(2, 0)`, the other iterator commands but `WINIT` are out of order, and a
`WINIT` or a pure command is not (R241). -/
def Obligations.AfterResetOnlyWinitMoves : Prop :=
  ∀ (s : State) (i : Instr), s.unit = State.reset.unit → i.wellFormed = true →
    ∃ t r, exec i s = .next t ∧ t.rsps = r :: s.rsps ∧
      (r.st = 9 ↔ i = .wnext ∨ (∃ ok, i = .wauth ok) ∨ i = .wack ∨ i = .wstop ∨ ∃ c, i = .wfail c) ∧
      (i = .wstat → r = ⟨0, 2, 0⟩)

/-! ## The medium and the reader -/

/-- A granted `MemWrite` of the host puts the sixteen bytes in their block, a refused one leaves any sixteen
bytes there, and in both cases every byte outside the block is as before, and so is everything but the medium, the
call record and the two inputs used up (R56, R60; the reader's answer is the model's input, log 3, log 4). -/
def Obligations.MemWriteChangesOneBlock : Prop :=
  ∀ (s : State) (blk : BitVec 8) (data : Block) (rest : List HostAct) (more : List ReaderInput),
    s.rst = false → s.seq = .idle → s.host = .write blk data :: rest → blk.toNat ≤ 63 →
    Memory.wf s.medium = true →
    (s.reader = .grant :: more → ∃ m, step s = .next
        { s with medium := m, calls := .write blk data true :: s.calls, reader := more, host := rest } ∧
      readBlock m blk.toNat = data ∧ ∀ a, a / 16 ≠ blk.toNat → memByte m a = memByte s.medium a) ∧
    (∀ left, s.reader = .deny left :: more → ∃ m, step s = .next
        { s with medium := m, calls := .write blk data false :: s.calls, reader := more, host := rest } ∧
      readBlock m blk.toNat = left ∧ ∀ a, a / 16 ≠ blk.toNat → memByte m a = memByte s.medium a)

/-- A granted `MemRead` brings the block's current contents, a refused one none; everything but the call record
and the two inputs used up is as before (R59, and R57 as the spec derives it; the reader's answer is the model's
input, log 3). -/
def Obligations.MemReadBringsTheBlock : Prop :=
  ∀ (s : State) (blk : BitVec 8) (rest : List HostAct) (more : List ReaderInput) (left : Block),
    s.rst = false → s.seq = .idle → s.host = .read blk :: rest → blk.toNat ≤ 63 →
    (s.reader = .grant :: more → ∃ b, step s = .next
        { s with calls := .read blk (some b) :: s.calls, reader := more, host := rest } ∧
      ∀ o, o < 16 → blockByte b o = memByte s.medium (16 * blk.toNat + o)) ∧
    (s.reader = .deny left :: more → step s = .next
      { s with calls := .read blk none :: s.calls, reader := more, host := rest })

/-- `Auth` hands the reader the handle, the block, the key type and the default key, and whether it is granted or
refused everything but the call record and the two inputs used up is as before (R58, and R57 as the spec derives
it; the reader's answer is the model's input, log 3). -/
def Obligations.AuthPassesTheDefaultKey : Prop :=
  ∀ (s : State) (h : CardHandle) (blk : BitVec 8) (rest : List HostAct) (more : List ReaderInput) (left : Block),
    s.rst = false → s.seq = .idle → s.host = .auth h blk :: rest → blk.toNat ≤ 63 →
    (s.reader = .grant :: more → step s = .next
      { s with
        calls := .auth h blk s.params.keyType s.params.defaultKey true :: s.calls, reader := more, host := rest }) ∧
    (s.reader = .deny left :: more → step s = .next
      { s with
        calls := .auth h blk s.params.keyType s.params.defaultKey false :: s.calls, reader := more, host := rest })

/-- A primitive called for a block index above 63, which names no block, faults: the model's choice, log 16. -/
def Obligations.BlocksOutsideTheMediumFault : Prop :=
  ∀ (s : State) (h : CardHandle) (blk : BitVec 8) (data : Block) (rest : List HostAct),
    s.rst = false → s.seq = .idle → 63 < blk.toNat →
    s.host = .auth h blk :: rest ∨ s.host = .read blk :: rest ∨ s.host = .write blk data :: rest →
    step s = .fault (.noSuchBlock blk)

/-- Every step keeps the medium in canonical form: addresses rise, lie on the 1024 bytes of the card, and no
listed byte equals what an unlisted address reads as. The form is the model's choice (log 2) over the medium of
R50. -/
def Obligations.StepsKeepTheMediumCanonical : Prop :=
  ∀ s t : State, Memory.wf s.medium = true → step s = .next t → Memory.wf t.medium = true

/-! ## The sequencer -/

/-- The read-setup: an all-zero block 4 ends the operation with `MalformedTlv`, another first byte with
`UnknownTlvType`, and a type byte at offset `o` leads on to `DECHDR o` (R182). -/
def Obligations.ReadSetupReportsFramingErrors : Prop :=
  ∀ (s : State) (h : CardHandle) (uri : Bool) (b : Block) (o : Nat), s.rst = false →
    s.seq = .setupFfs h uri b → o < 16 → (∀ i, i < o → blockByte b i = 0x00) →
    ∃ t, step s = .next t ∧ t.unit = s.unit ∧ t.medium = s.medium ∧ t.calls = s.calls ∧
      (blockByte b o = 0x03 → t.seq = .setupDechdr h uri b (BitVec.ofNat 4 o) ∧ t.results = s.results) ∧
      (blockByte b o ≠ 0x00 → blockByte b o ≠ 0x03 →
        t.seq = .idle ∧ t.results = .failed 4 none :: s.results) ∧
      (o = 15 → blockByte b o = 0x00 → t.seq = .idle ∧ t.results = .failed 3 none :: s.results)

/-- `writeUri`, with the record codec an unknown function (log 15): if it rejects the string the operation ends
with `CodecFailure` and neither the medium nor the unit is touched; else it is `writeFrame` of the bytes the codec
gives (R195, R197), refused if there are more than 65535 of them (R185; log 14). -/
def Obligations.WriteUriGoesThroughTheCodec : Prop :=
  ∀ (s : State) (h : CardHandle) (text : String) (rest : List HostAct), s.rst = false → s.seq = .idle →
    s.host = .writeUri h text :: rest →
    match Config.encodeUriRecord text with
    | none => step s = .next { s with host := rest, results := .failed 6 none :: s.results }
    | some p =>
      if p.length ≤ 65535 then step s = .next { s with host := rest, seq := .encoding h p }
      else step s = .refused .payloadTooLong

/-- A payload above 65535 bytes is refused before anything is written; any other leads on to `ENCHDR` (R185;
log 14). -/
def Obligations.LongPayloadsAreRefused : Prop :=
  ∀ (s : State) (h : CardHandle) (p : List Byte) (rest : List HostAct), s.rst = false → s.seq = .idle →
    s.host = .writeFrame h p :: rest →
    (65535 < p.length → step s = .refused .payloadTooLong) ∧
    (p.length ≤ 65535 → step s = .next { s with host := rest, seq := .encoding h p })

/-- As long as the host leaves the reader to the sequencer, every step keeps this: each reader call made so far
touched only a data block, or authenticated only a sector start, of sectors 1 to 15, and each transfer came
after a granted authentication of its sector with no other authentication in between (R160a, R160b, R246,
R258). -/
def Obligations.StepsTouchOnlyAuthenticatedDataBlocks : Prop :=
  ∀ s t : State, s.TransfersOk → step s = .next t → t.TransfersOk

/-- Under the same invariant no step faults: it answers a next state, or refuses a payload that has no header
encoding (R185, R259; that a primitive outside the medium faults is the model's choice, log 16). -/
def Obligations.StepsNeverFault : Prop :=
  ∀ s : State, s.TransfersOk → (∃ t, step s = .next t) ∨ step s = .refused .payloadTooLong

/-- The write walk begins with the chunks of `FRAME(P)` and as many blocks of budget, the medium untouched
(R185). -/
def Obligations.WriteBeginsWithTheFrame : Prop :=
  ∀ (s : State) (h : CardHandle) (p : List Byte), s.rst = false → s.seq = .encoding h p →
    p.length ≤ 65535 →
    ∃ t nblk, step s = .next t ∧ t.seq = .walkInit ⟨h, .write (frameChunks p)⟩ nblk ∧
      nblk.toNat = (frameChunks p).length ∧ t.medium = s.medium ∧ t.unit = s.unit ∧
      WriteProgress s.medium (.write (frameChunks p)) t

/-- The read walk begins with an empty buffer and a budget of `BUFSZ n` bytes (R183). -/
def Obligations.ReadBeginsWithTheBudget : Prop :=
  ∀ (s : State) (h : CardHandle) (uri : Bool) (n : Arg) (start : Nat), s.rst = false →
    s.seq = .sizing h uri n start →
    ∃ t nblk, step s = .next t ∧ t.seq = .walkInit ⟨h, .read start [] uri⟩ nblk ∧
      16 * nblk.toNat = bufferSize n.toNat ∧ t.medium = s.medium ∧ t.unit = s.unit ∧
      ReadProgress start uri t

/-- Every step of a write or a format keeps its account of the medium: the data blocks yielded so far hold
their chunks (or zeros) and every other byte is as it was, but for the block of a `MemWrite` that was refused; a
refused authentication and a write past `LAST_BLOCK` leave no block loose; an operation that reports success has
filled every block it had to, and one that fails reports the kind and the block that the unit has latched (R180,
R185, R186, R187, R212, R213, R223). -/
def Obligations.StepsKeepTheWriteProgress : Prop :=
  ∀ (m0 : Memory) (job : Job) (s t : State), s.WriteOk m0 job → step s = .next t → t.WriteOk m0 job

/-- Every step of a read keeps its account of the buffer: it is the data blocks read so far, free of the
terminator, as long as the logical offset says; a read that ends well, either at the terminator or with its budget
reached, returns it without its first `start` bytes, with what was kept of the terminator's block, and `readUri`
what the record codec makes of that (an unknown function, log 15); one that fails reports the kind and the block
that the unit has latched; the medium is as it was (R57, R183, R184, R194, R216). -/
def Obligations.StepsKeepTheReadProgress : Prop :=
  ∀ (m0 : Memory) (start : Nat) (uri : Bool) (s t : State), s.ReadOk m0 start uri → step s = .next t →
    t.ReadOk m0 start uri
end

