-- ==== Sys2Proof/Laws/Flags.lean ====
section
/-! SUPPORT. The packed response words as numbers, and their fields read back (30_encoding.md R99). -/

namespace Sys2Proof.Machine

/-- A concatenation as a number: the left part is the more significant (R12). -/
theorem append_toNat {m n : Nat} (a : BitVec m) (b : BitVec n) :
    (a ++ b).toNat = a.toNat * 2 ^ n + b.toNat := by
  rw [BitVec.toNat_append, Nat.shiftLeft_eq, Nat.mul_comm, ← Nat.two_pow_add_eq_or_of_lt b.isLt]

/-- A field of a word as a number (R12). -/
theorem field_toNat {n : Nat} (w : BitVec n) (lo len : Nat) :
    (w.extractLsb' lo len).toNat = w.toNat / 2 ^ lo % 2 ^ len := by
  rw [BitVec.extractLsb'_toNat, Nat.shiftRight_eq_div_pow]

/-- One bit of a word as a number (R12). -/
theorem bit_toNat {n : Nat} (w : BitVec n) (i : Nat) : (w.getLsbD i).toNat = w.toNat / 2 ^ i % 2 := by
  rw [BitVec.getLsbD, Nat.testBit_eq_decide_div_mod_eq]
  rcases Nat.mod_two_eq_zero_or_one (w.toNat / 2 ^ i) with h | h <;> simp [h]

/-- A one-bit field as a number. -/
theorem ofBool_toNat (b : Bool) : (BitVec.ofBool b).toNat = b.toNat := by cases b <;> rfl

/-! ## Sector geometry as arithmetic -/

theorem sectorOf_toNat (a : Arg) : (sectorOf a).toNat = a.toNat / 4 := by
  have := a.isLt
  have h : (BitVec.ofNat 16 Config.blocksPerSector).toNat = 4 := rfl
  simp only [sectorOf, BitVec.toNat_setWidth, BitVec.toNat_udiv, h]
  omega

theorem subBlockOf_toNat (a : Arg) : (subBlockOf a).toNat = a.toNat % 4 := by
  have h : (BitVec.ofNat 16 Config.blocksPerSector).toNat = 4 := rfl
  simp only [subBlockOf, BitVec.toNat_setWidth, BitVec.toNat_umod, h]
  omega

theorem isTrailer_iff (a : Arg) : isTrailer a = true ↔ a.toNat = 3 := by
  simp only [isTrailer, Config.trailerSub, beq_iff_eq, ← BitVec.toNat_inj]
  rfl

theorem isSectorStart_iff (a : Arg) : isSectorStart a = true ↔ a.toNat = 0 := by
  simp only [isSectorStart, beq_iff_eq, ← BitVec.toNat_inj]
  rfl

/-- The classification the iterator makes of the block under its cursor. -/
theorem isTrailer_cursor (b : BitVec 8) :
    isTrailer ((subBlockOf (b.setWidth 16)).setWidth 16) = true ↔ b.toNat % 4 = 3 := by
  have := b.isLt
  rw [isTrailer_iff]
  simp only [BitVec.toNat_setWidth, subBlockOf_toNat]
  omega

/-! ## Yield words -/

theorem packYield_toNat (b : BitVec 8) (a s d e : Bool) :
    (packYield b a s d e).toNat =
      b.toNat + 2 ^ 8 * (b.toNat / 4) + 2 ^ 16 * (b.toNat % 4) + 2 ^ 24 * a.toNat + 2 ^ 25 * s.toNat +
        2 ^ 26 * d.toNat + 2 ^ 27 * e.toNat := by
  have := b.isLt
  simp only [packYield, append_toNat, ofBool_toNat, subBlockOf_toNat, sectorOf_toNat,
    BitVec.toNat_setWidth, BitVec.toNat_ofNat]
  omega

/-- What the fields of a yield word say (R99, R152). -/
theorem packYield_fields (st : BitVec 4) (b : BitVec 8) (a s d e : Bool) (v1 : BitVec 32) :
    (⟨st, packYield b a s d e, v1⟩ : Response).blk = b ∧
    (⟨st, packYield b a s d e, v1⟩ : Response).flagA = a ∧
    (⟨st, packYield b a s d e, v1⟩ : Response).flagS = s ∧
    (⟨st, packYield b a s d e, v1⟩ : Response).flagD = d ∧
    (⟨st, packYield b a s d e, v1⟩ : Response).flagE = e := by
  have hb := b.isLt
  refine ⟨?_, ?_, ?_, ?_, ?_⟩
  · rw [← BitVec.toNat_inj, Response.blk, field_toNat, packYield_toNat]
    omega
  all_goals
    simp only [Response.flagA, Response.flagS, Response.flagD, Response.flagE, packYield, BitVec.getLsbD_append]
    simp

/-- The status word of `WSTAT` as a number (R32). -/
theorem packStatus_toNat (u : UnitState) :
    (packStatus u).toNat = u.phase.code.toNat + 2 ^ 2 * u.pend.toNat + 2 ^ 4 * u.mode.toNat +
      2 ^ 8 * u.bidx.toNat + 2 ^ 16 * u.err.toNat + 2 ^ 24 * u.errblk.toNat := by
  simp only [packStatus, append_toNat, ofBool_toNat, BitVec.toNat_ofNat]
  omega

/-- A counter in a response word loses nothing. -/
theorem counter_toNat (c : BitVec 17) : (c.setWidth 32).toNat = c.toNat := by
  have := c.isLt
  rw [BitVec.toNat_setWidth]
  omega

/-- The logical offset of a yield read back (R99). -/
theorem offset_of_counter (st : BitVec 4) (v0 : BitVec 32) (c : BitVec 17) :
    (⟨st, v0, c.setWidth 32⟩ : Response).offset = c := by
  have := c.isLt
  rw [← BitVec.toNat_inj, Response.offset, field_toNat, counter_toNat]
  omega

/-- The header word of `ENCHDR` read back byte by byte (R54, R99). -/
theorem packHeader_header (st : BitVec 4) (a b c d : Byte) (v1 : BitVec 32) :
    (⟨st, packHeader [a, b, c, d], v1⟩ : Response).header = [a, b, c, d] := by
  have ha := a.isLt
  have hb := b.isLt
  have hc := c.isLt
  have hd := d.isLt
  simp only [Response.header, List.cons.injEq, and_true, ← BitVec.toNat_inj, field_toNat, packHeader,
    append_toNat, List.getD_cons_zero, List.getD_cons_succ]
  omega

end Sys2Proof.Machine
end

