-- ==== Sys2Proof/Laws/State.lean ====
section
/-! SUPPORT. One lemma per field and named update of the state, so that no later proof unfolds an update. -/

namespace Sys2Proof.Machine

variable (s : State) (st : BitVec 4) (v0 v1 : BitVec 32) (e : Status) (u : UnitState) (q : Seq) (r : OpResult)
  (c : ReaderCall) (rest : List HostAct)

/-! ## respond -/
@[simp] theorem State.respond_unit : (s.respond st v0 v1).unit = s.unit := rfl
@[simp] theorem State.respond_params : (s.respond st v0 v1).params = s.params := rfl
@[simp] theorem State.respond_rst : (s.respond st v0 v1).rst = s.rst := rfl
@[simp] theorem State.respond_host : (s.respond st v0 v1).host = s.host := rfl
@[simp] theorem State.respond_rsps : (s.respond st v0 v1).rsps = ⟨st, v0, v1⟩ :: s.rsps := rfl
@[simp] theorem State.respond_seq : (s.respond st v0 v1).seq = s.seq := rfl
@[simp] theorem State.respond_reader : (s.respond st v0 v1).reader = s.reader := rfl
@[simp] theorem State.respond_medium : (s.respond st v0 v1).medium = s.medium := rfl
@[simp] theorem State.respond_calls : (s.respond st v0 v1).calls = s.calls := rfl
@[simp] theorem State.respond_results : (s.respond st v0 v1).results = s.results := rfl
@[simp] theorem State.respond_lastRsp : (s.respond st v0 v1).lastRsp = ⟨st, v0, v1⟩ := rfl

/-! ## succeed and raise are responses -/
theorem State.succeed_eq : s.succeed v0 v1 = s.respond 0 v0 v1 := rfl
theorem State.raise_eq : s.raise e = s.respond e.code 0 0 := rfl
@[simp] theorem State.succeed_unit : (s.succeed v0 v1).unit = s.unit := rfl
@[simp] theorem State.succeed_params : (s.succeed v0 v1).params = s.params := rfl
@[simp] theorem State.succeed_rst : (s.succeed v0 v1).rst = s.rst := rfl
@[simp] theorem State.succeed_host : (s.succeed v0 v1).host = s.host := rfl
@[simp] theorem State.succeed_rsps : (s.succeed v0 v1).rsps = ⟨0, v0, v1⟩ :: s.rsps := rfl
@[simp] theorem State.succeed_seq : (s.succeed v0 v1).seq = s.seq := rfl
@[simp] theorem State.succeed_reader : (s.succeed v0 v1).reader = s.reader := rfl
@[simp] theorem State.succeed_medium : (s.succeed v0 v1).medium = s.medium := rfl
@[simp] theorem State.succeed_calls : (s.succeed v0 v1).calls = s.calls := rfl
@[simp] theorem State.succeed_results : (s.succeed v0 v1).results = s.results := rfl
@[simp] theorem State.succeed_lastRsp : (s.succeed v0 v1).lastRsp = ⟨0, v0, v1⟩ := rfl
@[simp] theorem State.raise_unit : (s.raise e).unit = s.unit := rfl
@[simp] theorem State.raise_params : (s.raise e).params = s.params := rfl
@[simp] theorem State.raise_rst : (s.raise e).rst = s.rst := rfl
@[simp] theorem State.raise_host : (s.raise e).host = s.host := rfl
@[simp] theorem State.raise_rsps : (s.raise e).rsps = ⟨e.code, 0, 0⟩ :: s.rsps := rfl
@[simp] theorem State.raise_seq : (s.raise e).seq = s.seq := rfl
@[simp] theorem State.raise_reader : (s.raise e).reader = s.reader := rfl
@[simp] theorem State.raise_medium : (s.raise e).medium = s.medium := rfl
@[simp] theorem State.raise_calls : (s.raise e).calls = s.calls := rfl
@[simp] theorem State.raise_results : (s.raise e).results = s.results := rfl
@[simp] theorem State.raise_lastRsp : (s.raise e).lastRsp = ⟨e.code, 0, 0⟩ := rfl

/-! ## withUnit -/
@[simp] theorem State.withUnit_unit : (s.withUnit u).unit = u := rfl
@[simp] theorem State.withUnit_params : (s.withUnit u).params = s.params := rfl
@[simp] theorem State.withUnit_rst : (s.withUnit u).rst = s.rst := rfl
@[simp] theorem State.withUnit_host : (s.withUnit u).host = s.host := rfl
@[simp] theorem State.withUnit_rsps : (s.withUnit u).rsps = s.rsps := rfl
@[simp] theorem State.withUnit_seq : (s.withUnit u).seq = s.seq := rfl
@[simp] theorem State.withUnit_reader : (s.withUnit u).reader = s.reader := rfl
@[simp] theorem State.withUnit_medium : (s.withUnit u).medium = s.medium := rfl
@[simp] theorem State.withUnit_calls : (s.withUnit u).calls = s.calls := rfl
@[simp] theorem State.withUnit_results : (s.withUnit u).results = s.results := rfl
@[simp] theorem State.withUnit_self : s.withUnit s.unit = s := rfl

/-! ## takeReset -/
@[simp] theorem State.takeReset_unit : s.takeReset.unit = .reset := rfl
@[simp] theorem State.takeReset_params : s.takeReset.params = s.params := rfl
@[simp] theorem State.takeReset_rst : s.takeReset.rst = false := rfl
@[simp] theorem State.takeReset_host : s.takeReset.host = s.host := rfl
@[simp] theorem State.takeReset_rsps : s.takeReset.rsps = s.rsps := rfl
@[simp] theorem State.takeReset_seq : s.takeReset.seq = s.seq := rfl
@[simp] theorem State.takeReset_reader : s.takeReset.reader = s.reader := rfl
@[simp] theorem State.takeReset_medium : s.takeReset.medium = s.medium := rfl
@[simp] theorem State.takeReset_calls : s.takeReset.calls = s.calls := rfl
@[simp] theorem State.takeReset_results : s.takeReset.results = s.results := rfl

/-! ## served -/
@[simp] theorem State.served_unit : (s.served rest).unit = s.unit := rfl
@[simp] theorem State.served_params : (s.served rest).params = s.params := rfl
@[simp] theorem State.served_rst : (s.served rest).rst = s.rst := rfl
@[simp] theorem State.served_rsps : (s.served rest).rsps = s.rsps := rfl
@[simp] theorem State.served_seq : (s.served rest).seq = s.seq := rfl
@[simp] theorem State.served_reader : (s.served rest).reader = s.reader := rfl
@[simp] theorem State.served_medium : (s.served rest).medium = s.medium := rfl
@[simp] theorem State.served_calls : (s.served rest).calls = s.calls := rfl
@[simp] theorem State.served_results : (s.served rest).results = s.results := rfl
@[simp] theorem State.served_host : (s.served rest).host = rest := rfl

/-! ## goto and finish -/
@[simp] theorem State.goto_unit : (s.goto q).unit = s.unit := rfl
@[simp] theorem State.goto_params : (s.goto q).params = s.params := rfl
@[simp] theorem State.goto_rst : (s.goto q).rst = s.rst := rfl
@[simp] theorem State.goto_host : (s.goto q).host = s.host := rfl
@[simp] theorem State.goto_rsps : (s.goto q).rsps = s.rsps := rfl
@[simp] theorem State.goto_seq : (s.goto q).seq = q := rfl
@[simp] theorem State.goto_reader : (s.goto q).reader = s.reader := rfl
@[simp] theorem State.goto_medium : (s.goto q).medium = s.medium := rfl
@[simp] theorem State.goto_calls : (s.goto q).calls = s.calls := rfl
@[simp] theorem State.goto_results : (s.goto q).results = s.results := rfl
@[simp] theorem State.finish_unit : (s.finish r).unit = s.unit := rfl
@[simp] theorem State.finish_params : (s.finish r).params = s.params := rfl
@[simp] theorem State.finish_rst : (s.finish r).rst = s.rst := rfl
@[simp] theorem State.finish_host : (s.finish r).host = s.host := rfl
@[simp] theorem State.finish_rsps : (s.finish r).rsps = s.rsps := rfl
@[simp] theorem State.finish_seq : (s.finish r).seq = .idle := rfl
@[simp] theorem State.finish_reader : (s.finish r).reader = s.reader := rfl
@[simp] theorem State.finish_medium : (s.finish r).medium = s.medium := rfl
@[simp] theorem State.finish_calls : (s.finish r).calls = s.calls := rfl
@[simp] theorem State.finish_results : (s.finish r).results = r :: s.results := rfl

/-! ## log -/
@[simp] theorem State.log_unit : (s.log c).unit = s.unit := rfl
@[simp] theorem State.log_params : (s.log c).params = s.params := rfl
@[simp] theorem State.log_rst : (s.log c).rst = s.rst := rfl
@[simp] theorem State.log_host : (s.log c).host = s.host := rfl
@[simp] theorem State.log_rsps : (s.log c).rsps = s.rsps := rfl
@[simp] theorem State.log_seq : (s.log c).seq = s.seq := rfl
@[simp] theorem State.log_reader : (s.log c).reader = s.reader := rfl
@[simp] theorem State.log_medium : (s.log c).medium = s.medium := rfl
@[simp] theorem State.log_calls : (s.log c).calls = c :: s.calls := rfl
@[simp] theorem State.log_results : (s.log c).results = s.results := rfl

/-! ## the unit's own updates -/
@[simp] theorem UnitState.failWalk_phase (k : BitVec 3) : (u.failWalk k).phase = .failed := rfl
@[simp] theorem UnitState.failWalk_pend (k : BitVec 3) : (u.failWalk k).pend = false := rfl
@[simp] theorem UnitState.failWalk_mode (k : BitVec 3) : (u.failWalk k).mode = u.mode := rfl
@[simp] theorem UnitState.failWalk_bidx (k : BitVec 3) : (u.failWalk k).bidx = u.bidx := rfl
@[simp] theorem UnitState.failWalk_bcnt (k : BitVec 3) : (u.failWalk k).bcnt = u.bcnt := rfl
@[simp] theorem UnitState.failWalk_limit (k : BitVec 3) : (u.failWalk k).limit = u.limit := rfl
@[simp] theorem UnitState.failWalk_err (k : BitVec 3) : (u.failWalk k).err = k := rfl
@[simp] theorem UnitState.failWalk_errblk (k : BitVec 3) : (u.failWalk k).errblk = u.bidx := rfl
@[simp] theorem UnitState.endWalk_phase : u.endWalk.phase = .done := rfl
@[simp] theorem UnitState.endWalk_pend : u.endWalk.pend = false := rfl
@[simp] theorem UnitState.endWalk_mode : u.endWalk.mode = u.mode := rfl
@[simp] theorem UnitState.endWalk_bidx : u.endWalk.bidx = u.bidx := rfl
@[simp] theorem UnitState.endWalk_bcnt : u.endWalk.bcnt = u.bcnt := rfl
@[simp] theorem UnitState.endWalk_limit : u.endWalk.limit = u.limit := rfl
@[simp] theorem UnitState.endWalk_err : u.endWalk.err = u.err := rfl
@[simp] theorem UnitState.endWalk_errblk : u.endWalk.errblk = u.errblk := rfl
@[simp] theorem UnitState.startWalk_phase (m : BitVec 2) (k : BitVec 13) :
    (UnitState.startWalk m k).phase = .authenticating := rfl
@[simp] theorem UnitState.startWalk_pend (m : BitVec 2) (k : BitVec 13) :
    (UnitState.startWalk m k).pend = false := rfl
@[simp] theorem UnitState.startWalk_mode (m : BitVec 2) (k : BitVec 13) :
    (UnitState.startWalk m k).mode = m := rfl
@[simp] theorem UnitState.startWalk_bidx (m : BitVec 2) (k : BitVec 13) :
    (UnitState.startWalk m k).bidx = 4 := rfl
@[simp] theorem UnitState.startWalk_bcnt (m : BitVec 2) (k : BitVec 13) :
    (UnitState.startWalk m k).bcnt = 0 := rfl
@[simp] theorem UnitState.startWalk_limit (m : BitVec 2) (k : BitVec 13) :
    (UnitState.startWalk m k).limit.toNat = 16 * k.toNat := by
  have := k.isLt
  simp only [UnitState.startWalk, BitVec.toNat_ofNat, Config.blockSize]
  omega
@[simp] theorem UnitState.startWalk_err (m : BitVec 2) (k : BitVec 13) :
    (UnitState.startWalk m k).err = 0 := rfl
@[simp] theorem UnitState.startWalk_errblk (m : BitVec 2) (k : BitVec 13) :
    (UnitState.startWalk m k).errblk = 0 := rfl

end Sys2Proof.Machine
end

