-- ==== Sys2Proof/Laws/Memory.lean ====
section
/-! SUPPORT. The medium: read after write, what a write leaves alone, and that every operation keeps the
canonical form (20_memory.md R50, R57, R59, R60). -/

namespace Sys2Proof.Machine

/-! ## One byte -/

theorem memByte_memCons (a : Nat) (v : Byte) (m : Memory) (x : Nat) (h : memByte m a = Config.blankByte) :
    memByte (memCons a v m) x = if x = a then v else memByte m x := by
  unfold memCons
  split
  · split
    · subst_vars; exact h
    · rfl
  · rfl

/-- An address below every listed one reads as blank. -/
theorem memByte_below (low : Nat) (m : Memory) (h : Memory.wfFrom low m = true) (a : Nat) (ha : a < low) :
    memByte m a = Config.blankByte := by
  induction m generalizing low with
  | nil => rfl
  | cons c m ih =>
    obtain ⟨b, w⟩ := c
    simp only [Memory.wfFrom, Bool.and_eq_true, decide_eq_true_eq] at h
    rw [memByte, if_neg (by omega)]
    exact ih (b + 1) h.2 (by omega)

theorem wfFrom_mono (low low' : Nat) (m : Memory) (h : Memory.wfFrom low m = true) (hl : low' ≤ low) :
    Memory.wfFrom low' m = true := by
  cases m with
  | nil => rfl
  | cons c m =>
    obtain ⟨b, w⟩ := c
    simp only [Memory.wfFrom, Bool.and_eq_true, decide_eq_true_eq] at h ⊢
    exact ⟨⟨⟨by omega, h.1.1.2⟩, h.1.2⟩, h.2⟩

/-- Read after write, and every other address as before. -/
theorem memByte_memSet (low : Nat) (m : Memory) (h : Memory.wfFrom low m = true) (a : Nat) (v : Byte) (x : Nat) :
    memByte (memSet m a v) x = if x = a then v else memByte m x := by
  induction m generalizing low with
  | nil => exact memByte_memCons a v [] x rfl
  | cons c m ih =>
    obtain ⟨b, w⟩ := c
    simp only [Memory.wfFrom, Bool.and_eq_true, decide_eq_true_eq] at h
    rw [memSet]
    split
    · refine memByte_memCons a v _ x ?_
      rw [memByte, if_neg (by omega)]
      exact memByte_below (b + 1) m h.2 a (by omega)
    · split
      · subst_vars
        rw [memByte_memCons _ _ _ _ (memByte_below _ m h.2 _ (by omega)), memByte]
        split <;> rfl
      · simp only [memByte, ih (b + 1) h.2]
        split
        · rw [if_neg (by omega)]
        · rfl

theorem memCons_wfFrom (low a : Nat) (v : Byte) (m : Memory) (hl : low ≤ a) (ha : a < 1024)
    (h : Memory.wfFrom (a + 1) m = true) : Memory.wfFrom low (memCons a v m) = true := by
  unfold memCons
  split
  · exact wfFrom_mono _ _ _ h (by omega)
  · rename_i hv
    simp only [Memory.wfFrom, Bool.and_eq_true, decide_eq_true_eq, bne_iff_ne]
    exact ⟨⟨⟨hl, by simpa using ha⟩, hv⟩, h⟩

/-- A byte write keeps the canonical form. -/
theorem memSet_wfFrom (low : Nat) (m : Memory) (h : Memory.wfFrom low m = true) (a : Nat) (v : Byte)
    (hl : low ≤ a) (ha : a < 1024) : Memory.wfFrom low (memSet m a v) = true := by
  induction m generalizing low with
  | nil => exact memCons_wfFrom low a v [] hl ha rfl
  | cons c m ih =>
    obtain ⟨b, w⟩ := c
    have h' := h
    simp only [Memory.wfFrom, Bool.and_eq_true, decide_eq_true_eq, bne_iff_ne] at h'
    rw [memSet]
    split
    · refine memCons_wfFrom low a v _ hl ha ?_
      simp only [Memory.wfFrom, Bool.and_eq_true, decide_eq_true_eq, bne_iff_ne]
      exact ⟨⟨⟨by omega, h'.1.1.2⟩, h'.1.2⟩, h'.2⟩
    · split
      · subst_vars
        exact memCons_wfFrom low _ v _ hl ha h'.2
      · simp only [Memory.wfFrom, Bool.and_eq_true, decide_eq_true_eq, bne_iff_ne]
        exact ⟨h'.1, ih (b + 1) h'.2 (by omega)⟩

/-! ## Runs of bytes -/

theorem memSetBytes_wf (m : Memory) (a : Nat) (vs : List Byte) (h : Memory.wf m = true)
    (hv : a + vs.length ≤ 1024) : Memory.wf (memSetBytes m a vs) = true := by
  induction vs generalizing m a with
  | nil => exact h
  | cons v vs ih =>
    simp only [List.length_cons] at hv
    exact ih (memSet m a v) (a + 1) (memSet_wfFrom 0 m h a v (by omega) (by omega)) (by omega)

theorem memByte_memSetBytes (m : Memory) (a : Nat) (vs : List Byte) (h : Memory.wf m = true)
    (hv : a + vs.length ≤ 1024) (x : Nat) :
    memByte (memSetBytes m a vs) x =
      if a ≤ x ∧ x < a + vs.length then vs.getD (x - a) 0 else memByte m x := by
  induction vs generalizing m a with
  | nil => rw [if_neg (by simp)]; rfl
  | cons v vs ih =>
    simp only [List.length_cons] at hv ⊢
    rw [memSetBytes, ih (memSet m a v) (a + 1) (memSet_wfFrom 0 m h a v (by omega) (by omega)) (by omega),
      memByte_memSet 0 m h]
    by_cases hx : x = a
    · subst hx
      rw [if_neg (by omega), if_pos rfl, if_pos (by omega)]
      simp
    · rw [if_neg hx]
      by_cases hr : a + 1 ≤ x ∧ x < a + 1 + vs.length
      · rw [if_pos hr, if_pos (by omega), show x - a = (x - (a + 1)) + 1 by omega, List.getD_cons_succ]
      · rw [if_neg hr, if_neg (by omega)]

/-! ## Blocks and their bytes -/

@[simp] theorem blockBytes_length (b : Block) : (blockBytes b).length = 16 := by simp [blockBytes]

theorem blockBytes_getD (b : Block) (i : Nat) (h : i < 16) : (blockBytes b).getD i 0 = blockByte b i := by
  simp [blockBytes, h]

/-- A block is known by its sixteen bytes. -/
theorem block_ext (b c : Block) (h : ∀ i, i < 16 → blockByte b i = blockByte c i) : b = c := by
  apply BitVec.eq_of_getLsbD_eq
  intro i hi
  have hb := congrArg (fun v => v.getLsbD (i % 8)) (h (i / 8) (by omega))
  have h8 : i % 8 < 8 := Nat.mod_lt _ (by omega)
  have he : 8 * (i / 8) + i % 8 = i := Nat.div_add_mod i 8
  simpa [blockByte, BitVec.getLsbD_extractLsb', h8, he] using hb

/-- Byte `i` of the block built from a list (R104): the list's byte, zero beyond its end. -/
theorem blockByte_ofBytes (l : List Byte) (i : Nat) (h : i < 16) :
    blockByte (blockOfBytes l) i = l.getD i 0 := by
  induction l generalizing i with
  | nil => simp [blockOfBytes, blockByte]
  | cons v vs ih =>
    apply BitVec.eq_of_getLsbD_eq
    intro j hj
    cases i with
    | zero =>
      simp [blockOfBytes, blockByte, hj, BitVec.getLsbD_or,
        BitVec.getLsbD_setWidth, BitVec.getLsbD_shiftLeft]
      omega
    | succ i =>
      have hi := congrArg (fun w => w.getLsbD j) (ih i (by omega))
      have hv : v.getLsbD (8 * (i + 1) + j) = false := BitVec.getLsbD_of_ge _ _ (by omega)
      simp only [blockByte, BitVec.getLsbD_extractLsb', hj, decide_true, Bool.true_and] at hi ⊢
      simp only [blockOfBytes, BitVec.getLsbD_or, BitVec.getLsbD_setWidth, BitVec.getLsbD_shiftLeft, hv,
        Bool.and_false, Bool.false_or, List.getD_cons_succ, ← hi]
      have e1 : 8 * (i + 1) + j - 8 = 8 * i + j := by omega
      have e2 : 8 * (i + 1) + j < 128 := by omega
      have e3 : ¬(8 * (i + 1) + j < 8) := by omega
      simp [e1, e2, e3]

theorem blockOfBytes_blockBytes (b : Block) : blockOfBytes (blockBytes b) = b :=
  block_ext _ _ fun i h => by rw [blockByte_ofBytes _ i h, blockBytes_getD b i h]

/-! ## Block accesses -/

/-- Byte `o` of the block at `blk` is the byte at address `16 blk + o` (R52). -/
theorem blockByte_readBlock (m : Memory) (blk o : Nat) (h : o < 16) :
    blockByte (readBlock m blk) o = memByte m (16 * blk + o) := by
  rw [readBlock, blockByte_ofBytes _ o h]
  simp [h]

/-- Two media that agree on the sixteen bytes of a block read the same there. -/
theorem readBlock_congr (m m' : Memory) (blk : Nat)
    (h : ∀ a, a / 16 = blk → memByte m a = memByte m' a) : readBlock m blk = readBlock m' blk :=
  block_ext _ _ fun i hi => by
    rw [blockByte_readBlock _ _ _ hi, blockByte_readBlock _ _ _ hi]
    exact h _ (by omega)

theorem writeBlock_wf (m : Memory) (blk : Nat) (b : Block) (h : Memory.wf m = true) (hb : blk < 64) :
    Memory.wf (writeBlock m blk b) = true :=
  memSetBytes_wf m _ _ h (by simp; omega)

/-- A block write puts the block's bytes at its addresses and leaves every other byte as it was (R57). -/
theorem memByte_writeBlock (m : Memory) (blk : Nat) (b : Block) (h : Memory.wf m = true) (hb : blk < 64)
    (a : Nat) : memByte (writeBlock m blk b) a = if a / 16 = blk then blockByte b (a % 16) else memByte m a := by
  rw [writeBlock, memByte_memSetBytes m _ _ h (by simp; omega)]
  simp only [Config.blockSize, blockBytes_length]
  by_cases ha : a / 16 = blk
  · rw [if_pos (by omega), if_pos ha, blockBytes_getD _ _ (by omega)]
    congr 1
    omega
  · rw [if_neg (by omega), if_neg ha]

/-- A read after a write of the same block gives the block written (R60, R62). -/
theorem readBlock_writeBlock_same (m : Memory) (blk : Nat) (b : Block) (h : Memory.wf m = true)
    (hb : blk < 64) : readBlock (writeBlock m blk b) blk = b :=
  block_ext _ _ fun i hi => by
    rw [blockByte_readBlock _ _ _ hi, memByte_writeBlock m blk b h hb, if_pos (by omega)]
    congr 1
    omega

/-- A write leaves every other block as it was (R57). -/
theorem readBlock_writeBlock_other (m : Memory) (blk blk' : Nat) (b : Block) (h : Memory.wf m = true)
    (hb : blk < 64) (hne : blk' ≠ blk) : readBlock (writeBlock m blk b) blk' = readBlock m blk' :=
  readBlock_congr _ _ _ fun a ha => by rw [memByte_writeBlock m blk b h hb, if_neg (by omega)]

/-! ## What the reader's side does to the medium -/

/-- The canonical form survives whatever the reader's side brings (log 5). -/
theorem takeAnswer_wf (r : List ReaderInput) (m : Memory) (h : Memory.wf m = true)
    (ans : Answer) (rest : List ReaderInput) (m' : Memory) (ht : takeAnswer r m = some (ans, rest, m')) :
    Memory.wf m' = true := by
  induction r generalizing m with
  | nil => simp [takeAnswer] at ht
  | cons x r ih =>
    cases x with
    | grant => simp only [takeAnswer, Option.some.injEq, Prod.mk.injEq] at ht; rw [← ht.2.2]; exact h
    | deny left => simp only [takeAnswer, Option.some.injEq, Prod.mk.injEq] at ht; rw [← ht.2.2]; exact h
    | cardSets blk b => exact ih _ (writeBlock_wf m _ b h blk.isLt) ht

end Sys2Proof.Machine
end

