-- ==== Sys2Proof/Laws/Ops.lean ====
section
/-! SUPPORT. For each shared operation, once, everything it can do; the provers cite these instead of unfolding. -/

namespace Sys2Proof.Machine

/-! ## The scans of the codec -/

/-- The first byte that is not zero decides `FFS` (R121). -/
theorem scanFrameStart_at (l : List Byte) (i o : Nat) (ho : o < l.length)
    (hz : ∀ j, j < o → l.getD j 0 = 0) (hn : l.getD o 0 ≠ 0) :
    scanFrameStart l i = if l.getD o 0 = 0x03 then .ok (i + o) else .error .unknownTlvType := by
  induction l generalizing i o with
  | nil => simp at ho
  | cons v vs ih =>
    cases o with
    | zero =>
      simp only [List.getD_cons_zero] at hn ⊢
      have hn' : v ≠ Config.tlvPad := hn
      rw [scanFrameStart, if_neg hn']
      rfl
    | succ o =>
      have hv : v = Config.tlvPad := by simpa using hz 0 (by omega)
      simp only [List.getD_cons_succ] at hn ⊢
      rw [scanFrameStart, if_pos hv, ih (i + 1) o (by simpa using ho)
        (fun j hj => by simpa using hz (j + 1) (by omega)) hn]
      rw [show i + 1 + o = i + (o + 1) by omega]

/-- A list of zeros has no frame start (R121). -/
theorem scanFrameStart_zeros (l : List Byte) (i : Nat) (hz : ∀ j, j < l.length → l.getD j 0 = 0) :
    scanFrameStart l i = .error .malformedTlv := by
  induction l generalizing i with
  | nil => rfl
  | cons v vs ih =>
    have hv : v = Config.tlvPad := by simpa using hz 0 (by simp)
    rw [scanFrameStart, if_pos hv]
    exact ih (i + 1) fun j hj => by simpa using hz (j + 1) (by simpa using hj)

/-- The first terminator byte is found (R124). -/
theorem scanTerminator_at (l : List Byte) (i t : Nat) (ht : t < l.length)
    (hb : ∀ j, j < t → l.getD j 0 ≠ 0xFE) (he : l.getD t 0 = 0xFE) : scanTerminator l i = some (i + t) := by
  induction l generalizing i t with
  | nil => simp at ht
  | cons v vs ih =>
    cases t with
    | zero =>
      simp only [List.getD_cons_zero] at he
      have he' : v = Config.tlvTerminator := he
      rw [scanTerminator, if_pos he']
      rfl
    | succ t =>
      have hv : v ≠ Config.tlvTerminator := by simpa using hb 0 (by omega)
      rw [scanTerminator, if_neg hv, ih (i + 1) t (by simpa using ht)
        (fun j hj => by simpa using hb (j + 1) (by omega)) (by simpa using he)]
      rw [show i + 1 + t = i + (t + 1) by omega]

/-- Without a terminator byte nothing is found (R124). -/
theorem scanTerminator_none (l : List Byte) (i : Nat) (hb : ∀ j, j < l.length → l.getD j 0 ≠ 0xFE) :
    scanTerminator l i = none := by
  induction l generalizing i with
  | nil => rfl
  | cons v vs ih =>
    have hv : v ≠ Config.tlvTerminator := by simpa using hb 0 (by simp)
    rw [scanTerminator, if_neg hv]
    exact ih (i + 1) fun j hj => by simpa using hb (j + 1) (by simpa using hj)

/-- Either some first terminator byte is found, or there is none (R124). -/
theorem scanTerminator_cases (l : List Byte) (i : Nat) :
    (∃ t, t < l.length ∧ l.getD t 0 = 0xFE ∧ (∀ j, j < t → l.getD j 0 ≠ 0xFE) ∧
      scanTerminator l i = some (i + t)) ∨
    ((∀ j, j < l.length → l.getD j 0 ≠ 0xFE) ∧ scanTerminator l i = none) := by
  induction l generalizing i with
  | nil => exact .inr ⟨fun j hj => by simp at hj, rfl⟩
  | cons v vs ih =>
    rw [scanTerminator]
    by_cases hv : v = Config.tlvTerminator
    · exact .inl ⟨0, by simp, by simpa using hv, fun j hj => by omega, by rw [if_pos hv]; rfl⟩
    · rw [if_neg hv]
      rcases ih (i + 1) with ⟨t, ht, he, hb, hs⟩ | ⟨hb, hs⟩
      · refine .inl ⟨t + 1, by simpa using ht, by simpa using he, fun j hj => ?_, ?_⟩
        · cases j with
          | zero => simpa using hv
          | succ j => simpa using hb j (by omega)
        · rw [hs, show i + 1 + t = i + (t + 1) by omega]
      · refine .inr ⟨fun j hj => ?_, hs⟩
        cases j with
        | zero => simpa using hv
        | succ j => simpa using hb j (by simpa using hj)

/-! ## Calls of the reader -/

/-- What a call of a primitive can answer (R58 to R60, R67, R68). -/
theorem callReader_cases (blk : BitVec 8) (s : State) (k : Answer → State → Outcome) :
    (63 < blk.toNat ∧ callReader blk s k = .fault (.noSuchBlock blk)) ∨
    (blk.toNat ≤ 63 ∧ takeAnswer s.reader s.medium = none ∧ callReader blk s k = .next s) ∨
    ∃ ans rest m, blk.toNat ≤ 63 ∧ takeAnswer s.reader s.medium = some (ans, rest, m) ∧
      callReader blk s k = k ans { s with reader := rest, medium := m } := by
  unfold callReader
  by_cases hb : Config.numBlocks ≤ blk.toNat
  · rw [if_pos hb]
    have hb' : 64 ≤ blk.toNat := hb
    exact .inl ⟨by omega, rfl⟩
  · have hb' : blk.toNat ≤ 63 := by simp at hb; omega
    rw [if_neg hb]
    cases h : takeAnswer s.reader s.medium with
    | none => exact .inr (.inl ⟨hb', rfl, rfl⟩)
    | some x =>
      obtain ⟨ans, rest, m⟩ := x
      exact .inr (.inr ⟨ans, rest, m, hb', rfl, rfl⟩)

/-- With a grant in front, a primitive succeeds at once. -/
theorem callReader_grant (blk : BitVec 8) (s : State) (k : Answer → State → Outcome)
    (more : List ReaderInput) (hb : blk.toNat ≤ 63) (hr : s.reader = .grant :: more) :
    callReader blk s k = k .granted { s with reader := more } := by
  rw [callReader, if_neg (by simp; omega), hr]
  rfl

/-- With a denial in front, a primitive fails at once. -/
theorem callReader_deny (blk : BitVec 8) (s : State) (k : Answer → State → Outcome)
    (left : Block) (more : List ReaderInput) (hb : blk.toNat ≤ 63) (hr : s.reader = .deny left :: more) :
    callReader blk s k = k (.denied left) { s with reader := more } := by
  rw [callReader, if_neg (by simp; omega), hr]
  rfl

/-- What an `Auth` can answer: a fault, no answer yet, or an outcome, with the call recorded (R58, R189). -/
theorem authCall_cases (h : CardHandle) (blk : BitVec 8) (s : State) (k : Bool → State → Outcome) :
    (63 < blk.toNat ∧ authCall h blk s k = .fault (.noSuchBlock blk)) ∨
    (blk.toNat ≤ 63 ∧ takeAnswer s.reader s.medium = none ∧ authCall h blk s k = .next s) ∨
    ∃ ans rest m, blk.toNat ≤ 63 ∧ takeAnswer s.reader s.medium = some (ans, rest, m) ∧
      authCall h blk s k = k ans.ok { s with
        reader := rest, medium := m
        calls := .auth h blk s.params.keyType s.params.defaultKey ans.ok :: s.calls } :=
  callReader_cases blk s fun ans t =>
    k ans.ok (t.log (.auth h blk t.params.keyType t.params.defaultKey ans.ok))

/-- What a `MemRead` can answer (R59, R189). -/
theorem readCall_cases (blk : BitVec 8) (s : State) (k : Option Block → State → Outcome) :
    (63 < blk.toNat ∧ readCall blk s k = .fault (.noSuchBlock blk)) ∨
    (blk.toNat ≤ 63 ∧ takeAnswer s.reader s.medium = none ∧ readCall blk s k = .next s) ∨
    ∃ ans rest m, blk.toNat ≤ 63 ∧ takeAnswer s.reader s.medium = some (ans, rest, m) ∧
      readCall blk s k = k (readAnswer m blk ans) { s with
        reader := rest, medium := m, calls := .read blk (readAnswer m blk ans) :: s.calls } :=
  callReader_cases blk s fun ans t =>
    k (readAnswer t.medium blk ans) (t.log (.read blk (readAnswer t.medium blk ans)))

/-- What a `MemWrite` can answer, and what it leaves in its block (R56, R60, R189). -/
theorem writeCall_cases (blk : BitVec 8) (data : Block) (s : State) (k : Bool → State → Outcome) :
    (63 < blk.toNat ∧ writeCall blk data s k = .fault (.noSuchBlock blk)) ∨
    (blk.toNat ≤ 63 ∧ takeAnswer s.reader s.medium = none ∧ writeCall blk data s k = .next s) ∨
    ∃ ans rest m, blk.toNat ≤ 63 ∧ takeAnswer s.reader s.medium = some (ans, rest, m) ∧
      writeCall blk data s k = k ans.ok { s with
        reader := rest, medium := writeBlock m blk.toNat (writeLeaves data ans)
        calls := .write blk data ans.ok :: s.calls } :=
  callReader_cases blk s fun ans t =>
    k ans.ok (State.log (.write blk data ans.ok)
      { t with medium := writeBlock t.medium blk.toNat (writeLeaves data ans) })

/-- With exclusive access an answer leaves the medium as it was, and access stays exclusive (R62). -/
theorem takeAnswer_quiet (r : List ReaderInput) (m : Memory) (hq : quietReader r) (ans : Answer)
    (rest : List ReaderInput) (m' : Memory) (h : takeAnswer r m = some (ans, rest, m')) :
    m' = m ∧ quietReader rest := by
  cases r with
  | nil => simp [takeAnswer] at h
  | cons x r =>
    have hr : quietReader r := fun y hy => hq y (List.mem_cons_of_mem _ hy)
    cases x with
    | grant => simp only [takeAnswer, Option.some.injEq, Prod.mk.injEq] at h; exact ⟨h.2.2.symm, h.2.1 ▸ hr⟩
    | deny left => simp only [takeAnswer, Option.some.injEq, Prod.mk.injEq] at h; exact ⟨h.2.2.symm, h.2.1 ▸ hr⟩
    | cardSets blk b => exact absurd rfl (hq _ (List.mem_cons_self ..) blk b)

/-! ## Commands of the sequencer -/

/-- A command the sequencer issues: its response goes to what follows (R94). -/
theorem issue_next (i : Instr) (s t : State) (k : Response → State → Outcome) (h : exec i s = .next t) :
    issue i s k = k t.lastRsp t := by
  rw [issue, h]

/-! ## WNEXT -/

/-- Steps (3) to (6) of `WNEXT`: one of three yields (R152). -/
theorem classifyNext_cases (s : State) :
    (s.unit.phase = .authenticating ∧ classifyNext s =
      yieldNext { s.unit with pend := true } (packYield s.unit.bidx true false false false) s) ∨
    (s.unit.phase ≠ .authenticating ∧ s.unit.bidx.toNat % 4 = 3 ∧ classifyNext s =
      yieldNext { s.unit with bidx := s.unit.bidx + 1, pend := false, phase := .authenticating }
        (packYield s.unit.bidx false true false false) s) ∨
    (s.unit.phase ≠ .authenticating ∧ s.unit.bidx.toNat % 4 ≠ 3 ∧ classifyNext s =
      yieldNext { s.unit with pend := true } (packYield s.unit.bidx false false false false) s) := by
  unfold classifyNext
  by_cases hp : s.unit.phase = .authenticating
  · exact .inl ⟨hp, if_pos hp⟩
  · by_cases ht : isTrailer ((subBlockOf (s.unit.bidx.setWidth 16)).setWidth 16) = true
    · exact .inr (.inl ⟨hp, (isTrailer_cursor _).1 ht, by rw [if_neg hp, if_pos ht]⟩)
    · exact .inr (.inr ⟨hp, fun h => ht ((isTrailer_cursor _).2 h), by rw [if_neg hp, if_neg ht]⟩)

end Sys2Proof.Machine
end

