-- ==== Sys2Proof/Laws/PerInstr.lean ====
section
/-! SUPPORT. Statements about every command, one lemma per constructor. -/

namespace Sys2Proof.Laws.ReservedZero

open Sys2Proof.Machine

/-- The word of a command has its opcode in `OP`, which is not the reserved one, its operand in `ARG`, and zero in
`Z` (R95, R97, R100). -/
def Statement (i : Instr) : Prop :=
  opField i.word = i.opcode ∧ i.opcode ≠ 0 ∧ zField i.word = 0 ∧ argField i.word = i.arg

/-- The fields of a word put together from its opcode and its operand. -/
theorem fields (op : BitVec 4) (arg : Arg) :
    opField (op ++ 0#12 ++ arg) = op ∧ zField (op ++ 0#12 ++ arg) = 0 ∧ argField (op ++ 0#12 ++ arg) = arg := by
  have ho := op.isLt
  have ha := arg.isLt
  have h : (op ++ 0#12 ++ arg : BitVec 32).toNat = op.toNat * 2 ^ 12 * 2 ^ 16 + arg.toNat := by
    simp only [append_toNat, BitVec.toNat_ofNat, Nat.zero_mod, Nat.add_zero]
  refine ⟨?_, ?_, ?_⟩ <;> rw [← BitVec.toNat_inj]
  · rw [opField, field_toNat, h]; omega
  · rw [zField, field_toNat, h, show (0 : BitVec 12).toNat = 0 from rfl]; omega
  · rw [argField, field_toNat, h]; omega

/-- A command whose opcode is not the reserved one meets the statement. -/
theorem of_opcode (i : Instr) (h : i.opcode ≠ 0) : Statement i :=
  ⟨(fields i.opcode i.arg).1, h, (fields i.opcode i.arg).2.1, (fields i.opcode i.arg).2.2⟩

theorem locate (n : Arg) : Statement (.locate n) := of_opcode _ (by simp [Instr.opcode])
theorem istrl (n : Arg) : Statement (.istrl n) := of_opcode _ (by simp [Instr.opcode])
theorem isstart (n : Arg) : Statement (.isstart n) := of_opcode _ (by simp [Instr.opcode])
theorem ffs (b : Block) : Statement (.ffs b) := of_opcode _ (by simp [Instr.opcode])
theorem dechdr (o : BitVec 4) (b : Block) : Statement (.dechdr o b) := of_opcode _ (by simp [Instr.opcode])
theorem enchdr (n : Arg) : Statement (.enchdr n) := of_opcode _ (by simp [Instr.opcode])
theorem fterm (b : Block) : Statement (.fterm b) := of_opcode _ (by simp [Instr.opcode])
theorem bufsz (n : Arg) : Statement (.bufsz n) := of_opcode _ (by simp [Instr.opcode])
theorem winit (m : BitVec 2) (k : BitVec 13) : Statement (.winit m k) := of_opcode _ (by simp [Instr.opcode])
theorem wnext : Statement .wnext := of_opcode _ (by simp [Instr.opcode])
theorem wauth (ok : Bool) : Statement (.wauth ok) := of_opcode _ (by simp [Instr.opcode])
theorem wack : Statement .wack := of_opcode _ (by simp [Instr.opcode])
theorem wstop : Statement .wstop := of_opcode _ (by simp [Instr.opcode])
theorem wfail (c : BitVec 3) : Statement (.wfail c) := of_opcode _ (by simp [Instr.opcode])
theorem wstat : Statement .wstat := of_opcode _ (by simp [Instr.opcode])

end Sys2Proof.Laws.ReservedZero
end

