-- ==== Sys2Proof/Tests/Slice0.lean ====
section
/-! SUPPORT. Small tests of single commands on the spec's vectors (95_test_vectors.md, cited by table), and
for each statement with hypotheses a named witness that they can all be met together. -/

namespace Sys2Proof.Tests

open Sys2Proof.Machine

/-! ## Helpers -/

/-- A block from its bytes as numbers, zero behind them. -/
def bytes (l : List Nat) : Block := blockOfBytes (l.map (BitVec.ofNat 8))

/-- Response and unit after an outcome that is a next state. -/
def told : Outcome → Option (Response × UnitState)
  | .next t => some (t.lastRsp, t.unit)
  | _ => none

/-- The response after an outcome that is a next state. -/
def said (o : Outcome) : Option Response := (told o).map Prod.fst

/-- The reset machine with another record in its unit. -/
def withUnit (u : UnitState) : State := { State.reset with unit := u }

/-- A walk in progress. -/
def walking (phase : Phase) (pend : Bool) (mode : BitVec 2) (bidx : BitVec 8) (bcnt limit : BitVec 17) :
    UnitState := ⟨phase, pend, mode, bidx, bcnt, limit, 0, 0⟩

/-- The reset machine with a command on its port. -/
def ported (cw : CmdWord) (blk : Block) : State := { State.reset with host := [.command cw blk] }

/-- What the decoder says of a word with the zero block. -/
def reads (cw : CmdWord) : Option Instr :=
  match decode cw 0 with
  | .ok i => some i
  | .error _ => none

/-- Right after `WINIT READ, 1` and one `WNEXT` (V-SEQ). -/
def authPending : UnitState := walking .authenticating true 0 4 0 16
/-- After `WAUTH 1` (V-SEQ). -/
def sectorOpen : UnitState := walking .transferring false 0 4 0 16
/-- A data block is pending. -/
def dataPending : UnitState := walking .transferring true 0 4 0 16
/-- A trailer is under the cursor (P4 step 14). -/
def onTrailer : UnitState := walking .transferring false 1 7 48 80

def short9 : Block := bytes [0, 0, 3, 9, 0x68, 0x74, 0x74, 0x70, 0x73, 0x3A, 0x2F, 0x2F, 0x78, 0xFE, 0, 0]
def last03 : Block := bytes [0, 0, 0, 0, 0, 0, 0, 0, 0, 0, 0, 0, 0, 0, 0, 3]
def bad01 : Block := bytes [0, 0, 1, 3]
def off12long : Block := bytes [0, 0, 0, 0, 0, 0, 0, 0, 0, 0, 0, 0, 3, 0xFF, 1, 0x2C]
def off13long : Block := bytes [0, 0, 0, 0, 0, 0, 0, 0, 0, 0, 0, 0, 0, 3, 0xFF, 1]
def off14long : Block := bytes [0, 0, 0, 0, 0, 0, 0, 0, 0, 0, 0, 0, 0, 0, 3, 0xFF]
def off14short : Block := bytes [0, 0, 0, 0, 0, 0, 0, 0, 0, 0, 0, 0, 0, 0, 3, 7]
def fe14 : Block := bytes [0x41, 0x41, 0x41, 0x41, 0x41, 0x41, 0x41, 0x41, 0x41, 0x41, 0x41, 0x41, 0x41, 0x41, 0xFE, 0]
def fe15 : Block := bytes [0x41, 0x41, 0x41, 0x41, 0x41, 0x41, 0x41, 0x41, 0x41, 0x41, 0x41, 0x41, 0x41, 0x41, 0x41, 0xFE]

/-! ## WellFormed: one ill-formed term for each check, and the legal values beside it (R97) -/

theorem test_mode_three_is_ill_formed : (Instr.winit 3 1).wellFormed = false := by decide
theorem test_modes_are_well_formed :
    (Instr.winit 0 1).wellFormed && (Instr.winit 1 1).wellFormed && (Instr.winit 2 1).wellFormed := by decide
theorem test_code_zero_is_ill_formed : (Instr.wfail 0).wellFormed = false := by decide
theorem test_code_seven_is_ill_formed : (Instr.wfail 7).wellFormed = false := by decide
theorem test_codes_are_well_formed : (Instr.wfail 1).wellFormed && (Instr.wfail 6).wellFormed := by decide

/-! ## Decoding: each word written out from R95 to R97: `OP`, `Z`, `ARG` -/

theorem test_decode_locate : reads 0b0001_000000000000_0000000000111111 = some (.locate 63) := by decide
theorem test_decode_istrl : reads 0b0010_000000000000_0000000000000011 = some (.istrl 3) := by decide
theorem test_decode_isstart : reads 0b0011_000000000000_1111111111111111 = some (.isstart 65535) := by decide
theorem test_decode_ffs : reads 0b0100_000000000000_0000000000000000 = some (.ffs 0) := by decide
theorem test_decode_dechdr : reads 0b0101_000000000000_0000000000001101 = some (.dechdr 13 0) := by decide
theorem test_decode_enchdr : reads 0b0110_000000000000_0000000100101100 = some (.enchdr 300) := by decide
theorem test_decode_fterm : reads 0b0111_000000000000_0000000000000000 = some (.fterm 0) := by decide
theorem test_decode_bufsz : reads 0b1000_000000000000_0000000011111110 = some (.bufsz 254) := by decide
theorem test_decode_winit : reads 0b1001_000000000000_0100000000000101 = some (.winit 1 5) := by decide
theorem test_decode_winit_fields : reads 0b1001_000000000000_1001111111111111 = some (.winit 2 8191) := by decide
theorem test_decode_wnext : reads 0b1010_000000000000_0000000000000000 = some .wnext := by decide
theorem test_decode_wauth : reads 0b1011_000000000000_0000000000000001 = some (.wauth true) := by decide
theorem test_decode_wauth_failed : reads 0b1011_000000000000_0000000000000000 = some (.wauth false) := by decide
theorem test_decode_wack : reads 0b1100_000000000000_0000000000000000 = some .wack := by decide
theorem test_decode_wstop : reads 0b1101_000000000000_0000000000000000 = some .wstop := by decide
theorem test_decode_wfail : reads 0b1110_000000000000_0000000000000110 = some (.wfail 6) := by decide
theorem test_decode_wstat : reads 0b1111_000000000000_0000000000000000 = some .wstat := by decide

/-- V-ILL: words that no row of the opcode table matches. -/
theorem test_illegal_words_do_not_decode :
    ([0x00000000, 0x00000001, 0x10010004, 0x88000009, 0x40000001, 0x70000010, 0x50000010, 0x90002001,
      0xA0000001, 0xC0000001, 0xD0000001, 0xF0000001, 0xB0000002, 0xE0000008] : List CmdWord).map reads =
    List.replicate 14 none := by decide

/-- V-ILL: all of them, and the three that a command itself refuses, are answered `rsp(8, 0, 0)`. -/
theorem test_illegal_words_are_answered_eight :
    ([0x00000000, 0x10010004, 0x50000010, 0x9000C001, 0x90002001, 0xB0000002, 0xE0000000, 0xE0000007,
      0xE0000008] : List CmdWord).map (fun cw => told (step (ported cw 0))) =
    List.replicate 9 (some (⟨8, 0, 0⟩, .reset)) := by decide

/-- The table word of `WSTAT` decodes, and is the first command run after reset (R241). -/
theorem test_table_word_decodes : decodeTableWord 32 0xF0000000 = some .wstat := by decide
theorem test_table_word_runs : told (step (State.reset.withFetchWord 32 0xF0000000)) =
    some (⟨0, 2, 0⟩, .reset) := by decide
/-- A block operand stands above the command word (R93). -/
theorem test_table_word_block : told (step (State.reset.withFetchWord 160 (short9.toNat * 2 ^ 32 + 0x40000000))) =
    some (⟨0, 2, 0⟩, .reset) := by decide

/-- Lines of the programs P1 and P3 and of the tables. -/
theorem test_assemble_lines :
    assembleText "WINIT READ, 1" = some (.winit 0 1) ∧ assembleText "WNEXT" = some .wnext ∧
    assembleText "WFAIL IoFailure ; code 2" = some (.wfail 2) ∧ assembleText "BUFSZ 0x12C" = some (.bufsz 300) ∧
    assembleText "DECHDR 2, [00 00 03 09 68 74 74 70 73 3A 2F 2F 78 FE 00 00]" = some (.dechdr 2 short9) ∧
    assembleText "DECHDR 16, [00 00 03 09 68 74 74 70 73 3A 2F 2F 78 FE 00 00]" = none := by decide

/-- V-END's response at the end of the medium, as text. -/
theorem test_response_text : Response.text ⟨2, 0x40, 0⟩ = "-> ST=IoFailure, V0=0x00000040, V1=0x00000000" := by
  decide

/-! ## Commands on the spec's vectors -/

/-- V-GEO -/
theorem test_locate_last_block : said (exec (.locate 63) .reset) = some ⟨0, 15, 3⟩ := by decide
theorem test_locate_largest : said (exec (.locate 65535) .reset) = some ⟨0, 0x3FFF, 3⟩ := by decide
theorem test_istrl_three : said (exec (.istrl 3) .reset) = some ⟨0, 1, 0⟩ := by decide
theorem test_istrl_seven : said (exec (.istrl 7) .reset) = some ⟨0, 0, 0⟩ := by decide
theorem test_isstart_zero : said (exec (.isstart 0) .reset) = some ⟨0, 1, 0⟩ := by decide
theorem test_isstart_four : said (exec (.isstart 4) .reset) = some ⟨0, 0, 0⟩ := by decide

/-- V-FFS -/
theorem test_ffs_short9 : said (exec (.ffs short9) .reset) = some ⟨0, 2, 0⟩ := by decide
theorem test_ffs_foreign : said (exec (.ffs bad01) .reset) = some ⟨4, 0, 0⟩ := by decide

/-- V-DEC -/
theorem test_dechdr_ends_at_fifteen :
    said (exec (.dechdr 12 off12long) .reset) = some ⟨0, 0x12C, 0x110⟩ := by decide
theorem test_dechdr_past_the_block : said (exec (.dechdr 13 off13long) .reset) = some ⟨3, 0, 0⟩ := by decide

/-- V-ENC -/
theorem test_enchdr_300 : said (exec (.enchdr 300) .reset) = some ⟨0, 0x03FF012C, 1⟩ := by decide
theorem test_enchdr_254 : said (exec (.enchdr 254) .reset) = some ⟨0, 0x000003FE, 4⟩ := by decide

/-- V-FT -/
theorem test_fterm_at_fifteen : said (exec (.fterm fe15) .reset) = some ⟨0, 15, 0xF01⟩ := by decide
theorem test_fterm_at_fourteen : said (exec (.fterm fe14) .reset) = some ⟨0, 14, 0xF01⟩ := by decide

/-- V-ENC -/
theorem test_bufsz_largest : said (exec (.bufsz 65535) .reset) = some ⟨0, 0x10010, 0⟩ := by decide
theorem test_bufsz_255 : said (exec (.bufsz 255) .reset) = some ⟨0, 272, 0⟩ := by decide

/-- V-SEQ -/
theorem test_winit : told (exec (.winit 0 1) .reset) =
    some (⟨0, 0, 0⟩, walking .authenticating false 0 4 0 16) := by decide
theorem test_winit_mode_three : told (exec (.winit 3 1) .reset) = some (⟨8, 0, 0⟩, .reset) := by decide
theorem test_wnext_authenticate : told (exec .wnext (withUnit (walking .authenticating false 0 4 0 16))) =
    some (⟨0, 0x01000104, 0⟩, authPending) := by decide
/-- P4 step 15: the trailer of sector 1, the logical offset unchanged. -/
theorem test_wnext_trailer : told (exec .wnext (withUnit onTrailer)) =
    some (⟨0, 0x02030107, 0x30⟩, walking .authenticating false 1 8 48 80) := by decide
theorem test_wauth_granted : told (exec (.wauth true) (withUnit authPending)) =
    some (⟨0, 0, 0⟩, sectorOpen) := by decide
/-- P3 step 30. -/
theorem test_wauth_refused :
    (told (exec (.wauth false) (withUnit (walking .authenticating true 2 12 96 0)))).map
      (fun a => packStatus a.2) = some 0x0C010C23 := by decide
/-- R154's example. -/
theorem test_wack : told (exec .wack (withUnit dataPending)) =
    some (⟨0, 0, 0⟩, walking .transferring false 0 5 16 16) := by decide
theorem test_wack_out_of_order : told (exec .wack (withUnit authPending)) =
    some (⟨9, 0, 0⟩, authPending) := by decide
/-- R155's example. -/
theorem test_wstop : (told (exec .wstop (withUnit dataPending))).map (fun a => packStatus a.2) =
    some 0x00000402 := by decide
/-- R156's example. -/
theorem test_wfail : (told (exec (.wfail 2) (withUnit (walking .transferring true 0 5 16 32)))).map
    (fun a => packStatus a.2) = some 0x05020503 := by decide
theorem test_wfail_after_reset : told (exec (.wfail 2) .reset) = some (⟨9, 0, 0⟩, .reset) := by decide
/-- V-END: all 45 chunks written. -/
theorem test_wstat : said (exec .wstat (withUnit (walking .done false 1 63 720 720))) =
    some ⟨0, 0x00003F12, 0x2D0⟩ := by decide

/-! ## Witnesses: encoding and the step -/

theorem wit_encodeOfDecode : decode 0x5000000D off13long = .ok (.dechdr 13 off13long) ∧
    (Instr.dechdr 13 off13long).usesBlk = true := ⟨rfl, rfl⟩

theorem wit_illegalWords :
    OnPort (ported 0xE0000008 0) 0xE0000008 0 [] ∧
    ([0x00000000, 0x10010004, 0x1FFF0004, 0x40000001, 0x50000010, 0x9000C001, 0x90002001, 0xB0000002,
      0xE0000000, 0xE0000007, 0xE0000008] : List CmdWord).all (fun cw => decide (said (step (ported cw 0)) =
        some ⟨8, 0, 0⟩)) ∧ IllegalWord 0x00000000 ∧ IllegalWord 0x10010004 ∧ IllegalWord 0x40000001 ∧
    IllegalWord 0x50000010 ∧ IllegalWord 0x9000C001 ∧ IllegalWord 0x90002001 ∧ IllegalWord 0xB0000002 ∧
    IllegalWord 0xE0000007 ∧ IllegalWord 0xE0000008 := by
  refine ⟨by decide, by decide, ?_⟩; simp [IllegalWord]

theorem wit_legalWords :
    OnPort (ported 0x5000000F 0) 0x5000000F 0 [] ∧ ¬IllegalWord 0x1000FFFF ∧ ¬IllegalWord 0x5000000F ∧
    ¬IllegalWord 0x90009FFF ∧ ¬IllegalWord 0xB0000001 ∧ ¬IllegalWord 0xE0000006 := by
  refine ⟨by decide, ?_⟩; simp [IllegalWord]

theorem wit_assemble : (Instr.winit 2 8191).wellFormed = true ∧ (Instr.wfail 6).wellFormed = true := by decide

theorem wit_stepRuns : OnPort (ported 0x90004005 0) 0x90004005 0 [] ∧
    decode 0x90004005 0 = .ok (.winit 1 5) := ⟨by decide, rfl⟩

theorem wit_waits : State.reset.rst = false ∧ State.reset.seq = .idle ∧ State.reset.host = [] := by decide

/-- A pure command, `WSTAT`, an illegal `WINIT` and an early `WNEXT`. -/
theorem wit_writesNothing :
    (∃ t r, exec (.locate 0) .reset = .next t ∧ t.rsps = r :: State.reset.rsps ∧ isPure (.locate 0) = true) ∧
    (∃ t r, exec .wstat .reset = .next t ∧ t.rsps = r :: State.reset.rsps) ∧
    (∃ t r, exec (.winit 3 0) .reset = .next t ∧ t.rsps = r :: State.reset.rsps ∧ r.st = 8) ∧
    (∃ t r, exec .wnext .reset = .next t ∧ t.rsps = r :: State.reset.rsps ∧ r.st = 9) :=
  ⟨⟨_, _, rfl, rfl, rfl⟩, ⟨_, _, rfl, rfl⟩, ⟨_, _, rfl, rfl, rfl⟩, ⟨_, _, rfl, rfl, rfl⟩⟩

theorem wit_pure : isPure (.locate 7) = true ∧ (∃ t, exec (.locate 7) .reset = .next t) ∧
    ∃ t, exec (.locate 7) (withUnit dataPending) = .next t := ⟨rfl, ⟨_, rfl⟩, ⟨_, rfl⟩⟩

/-- The end of the medium in READ and in WRITE mode, one block behind the last. -/
theorem wit_namedStatuses :
    (∃ t r, exec .wnext (withUnit (walking .authenticating false 0 64 720 736)) = .next t ∧
      t.rsps = r :: [] ∧ r.st = 5) ∧
    (∃ t r, exec .wnext (withUnit (walking .authenticating false 1 64 720 736)) = .next t ∧
      t.rsps = r :: [] ∧ r.st = 2) ∧
    ∃ t r, exec (.ffs 0) .reset = .next t ∧ t.rsps = r :: [] ∧ r.st ≠ 0 := by
  refine ⟨⟨_, _, rfl, rfl, ?_⟩, ⟨_, _, rfl, rfl, ?_⟩, ⟨_, _, rfl, rfl, ?_⟩⟩ <;> decide

/-! ## Witnesses: the commands -/

/-- A word of every opcode whose `Z` is not zero, at both ends of `Z`, and of every opcode that has an
illegal `ARG`, at the first illegal value. -/
theorem wit_refusesIllegal :
    (List.range 16).all (fun op =>
      let low : CmdWord := BitVec.ofNat 32 (op * 2 ^ 28 + 2 ^ 16)
      let high : CmdWord := BitVec.ofNat 32 (op * 2 ^ 28 + 2 ^ 27)
      low.toNat / 2 ^ 28 == op && low.toNat / 2 ^ 16 % 2 ^ 12 != 0 &&
      high.toNat / 2 ^ 28 == op && high.toNat / 2 ^ 16 % 2 ^ 12 != 0) ∧
    (0x50000010 : CmdWord).toNat % 2 ^ 16 > 15 ∧ (0x9000C000 : CmdWord).toNat % 2 ^ 16 / 2 ^ 14 = 3 ∧
    (0x90002000 : CmdWord).toNat % 2 ^ 16 / 2 ^ 13 % 2 = 1 ∧ (0xB0000002 : CmdWord).toNat % 2 ^ 16 > 1 ∧
    (0xE0000000 : CmdWord).toNat % 2 ^ 16 % 8 = 0 ∧ (0xE0000007 : CmdWord).toNat % 2 ^ 16 % 8 = 7 ∧
    (0xE0000008 : CmdWord).toNat % 2 ^ 16 > 7 ∧ (0x40000001 : CmdWord).toNat % 2 ^ 16 ≠ 0 := by decide

theorem wit_geometry : (∃ a, exec (.locate 0) .reset = .next a) ∧ ∃ a, exec (.locate 65535) .reset = .next a :=
  ⟨⟨_, rfl⟩, ⟨_, rfl⟩⟩

/-- The type byte at offset 15, another byte at offset 0, and no byte at all. -/
theorem wit_ffs :
    (15 < 16 ∧ (∀ i, i < 15 → blockByte last03 i = 0x00) ∧ blockByte last03 15 = 0x03) ∧
    (blockByte short9 2 = 0x03 ∧ ∀ i, i < 2 → blockByte short9 i = 0x00) ∧
    (blockByte fe15 0 ≠ 0x00 ∧ blockByte fe15 0 ≠ 0x03) ∧ (∀ i, i < 16 → blockByte 0 i = 0x00) := by decide

/-- Each clause at the last offset it allows. -/
theorem wit_dechdr :
    blockByte short9 (0 : BitVec 4).toNat ≠ 0x03 ∧
    (blockByte last03 (15 : BitVec 4).toNat = 0x03 ∧ (15 : BitVec 4).toNat = 15) ∧
    (blockByte off14short (14 : BitVec 4).toNat = 0x03 ∧ (14 : BitVec 4).toNat ≤ 14 ∧
      blockByte off14short ((14 : BitVec 4).toNat + 1) ≠ 0xFF) ∧
    (blockByte off13long (13 : BitVec 4).toNat = 0x03 ∧ 13 ≤ (13 : BitVec 4).toNat ∧
      (13 : BitVec 4).toNat ≤ 14 ∧ blockByte off13long ((13 : BitVec 4).toNat + 1) = 0xFF) ∧
    (blockByte off14long (14 : BitVec 4).toNat = 0x03 ∧ (14 : BitVec 4).toNat ≤ 14 ∧
      blockByte off14long ((14 : BitVec 4).toNat + 1) = 0xFF) ∧
    (blockByte off12long (12 : BitVec 4).toNat = 0x03 ∧ (12 : BitVec 4).toNat ≤ 12 ∧
      blockByte off12long ((12 : BitVec 4).toNat + 1) = 0xFF) := by decide

theorem wit_enchdr : (254 : Arg).toNat < 255 ∧ 255 ≤ (255 : Arg).toNat := by decide

/-- The terminator at offsets 14 and 15, and nowhere. -/
theorem wit_fterm :
    ((∀ i, i < 14 → blockByte fe14 i ≠ 0xFE) ∧ blockByte fe14 14 = 0xFE) ∧
    ((∀ i, i < 15 → blockByte fe15 i ≠ 0xFE) ∧ blockByte fe15 15 = 0xFE) ∧
    ∀ i, i < 16 → blockByte last03 i ≠ 0xFE := by decide

/-- The last short length and the first long one. -/
theorem wit_roundTrip :
    (∃ a, exec (.enchdr 254) .reset = .next a ∧
      ∀ i, i < 4 → blockByte (bytes [0, 0, 3, 0xFE, 0x41]) i = a.lastRsp.header.getD i 0) ∧
    ∃ a, exec (.enchdr 255) .reset = .next a ∧
      ∀ i, i < 4 → blockByte (bytes [3, 0xFF, 0, 0xFF, 0x41]) i = a.lastRsp.header.getD i 0 := by
  refine ⟨⟨_, rfl, ?_⟩, ⟨_, rfl, ?_⟩⟩ <;> decide

/-- A canonical header and a long header with a length below 255. -/
theorem wit_canonicity :
    (∃ d e, exec (.dechdr 2 short9) .reset = .next d ∧ d.lastRsp.st = 0 ∧
      exec (.enchdr d.lastRsp.payloadLength) .reset = .next e) ∧
    ∃ d e, exec (.dechdr 0 (bytes [3, 0xFF, 0, 5])) .reset = .next d ∧ d.lastRsp.st = 0 ∧
      exec (.enchdr d.lastRsp.payloadLength) .reset = .next e ∧ d.lastRsp.decodedLong = true ∧
      d.lastRsp.payloadLength.toNat < 255 := by
  refine ⟨⟨_, _, rfl, ?_, rfl⟩, ⟨_, _, rfl, ?_, rfl, ?_, ?_⟩⟩ <;> decide

theorem wit_frame :
    (List.replicate 254 (0x41 : Byte)).length < 255 ∧ 255 ≤ (List.replicate 255 (0x41 : Byte)).length ∧
    (List.replicate 65535 (0x41 : Byte)).length ≤ 65535 ∧ 0 < (List.replicate 1 (0x41 : Byte)).length := by
  simp only [List.length_replicate]; decide

theorem wit_chunks : ([0x41] : List Byte).length ≤ 65535 ∧ 0 < (frameChunks [0x41]).length ∧ 15 < 16 := by decide

/-- Lengths at every case: long, 11, 14, 12 and 13 mod 16. -/
theorem wit_bufszFrame :
    (∀ n ∈ [255, 254, 11, 12, 253], (List.replicate n (0x41 : Byte)).length = n ∧
      ∃ a, exec (.bufsz (BitVec.ofNat 16 n)) .reset = .next a) ∧
    254 % 16 ≠ 12 ∧ 254 % 16 ≠ 13 ∧ 11 % 16 ≠ 12 ∧ 11 % 16 ≠ 13 ∧ 12 % 16 = 12 ∧ 253 % 16 = 13 :=
  ⟨fun _ _ => ⟨List.length_replicate .., ⟨_, rfl⟩⟩, by decide⟩

theorem wit_winit : (0 : BitVec 2) ≠ 3 ∧ (2 : BitVec 2) ≠ 3 := by decide

/-- Budget reached exactly; one block short of it, behind the last block, in each mode; at the last block in
each phase. -/
theorem wit_wnext :
    (let u := walking .transferring false 1 63 720 720
     u.phase.active = true ∧ u.mode ≠ 2 ∧ u.limit.toNat ≤ u.bcnt.toNat) ∧
    (∀ m : BitVec 2, m = 0 ∨ m = 1 ∨ m = 2 →
      let u := walking .authenticating false m 64 720 736
      u.phase.active = true ∧ (u.mode = 2 ∨ u.bcnt.toNat < u.limit.toNat) ∧
        State.reset.params.lastBlock.toNat < u.bidx.toNat) ∧
    (let u := walking .authenticating false 0 60 672 688
     u.phase = .authenticating ∧ u.bcnt.toNat < u.limit.toNat ∧
       u.bidx.toNat ≤ State.reset.params.lastBlock.toNat) ∧
    (let u := walking .transferring false 2 63 720 0
     u.phase = .transferring ∧ u.mode = 2 ∧ u.bidx.toNat ≤ State.reset.params.lastBlock.toNat ∧
       u.bidx.toNat % 4 = 3) ∧
    (let u := walking .transferring false 1 62 704 720
     u.phase = .transferring ∧ u.bcnt.toNat < u.limit.toNat ∧
       u.bidx.toNat ≤ State.reset.params.lastBlock.toNat ∧ u.bidx.toNat % 4 ≠ 3) := by decide

/-- Pending and not pending, for `WAUTH`, `WACK`, `WSTOP` and `WFAIL`. -/
theorem wit_acknowledgements :
    (authPending.phase = .authenticating ∧ authPending.pend = true) ∧
    (dataPending.phase = .transferring ∧ dataPending.pend = true) ∧
    ¬(sectorOpen.phase = .transferring ∧ sectorOpen.pend = true) ∧
    ¬(dataPending.phase = .authenticating ∧ dataPending.pend = true) ∧
    sectorOpen.phase.active = true ∧ UnitState.reset.phase = .done ∧
    (walking .failed false 0 4 0 16).phase = .failed ∧
    ((1 : BitVec 3) ≠ 0 ∧ (1 : BitVec 3) ≠ 7) ∧ ((6 : BitVec 3) ≠ 0 ∧ (6 : BitVec 3) ≠ 7) := by decide

theorem wit_illegalSequence :
    (∃ t r, exec .wack (withUnit authPending) = .next t ∧ t.rsps = r :: [] ∧ r.st = 9) ∧
    Instr.wack.wellFormed = true ∧ outOfOrder authPending .wack ∧ outOfOrder .reset .wnext ∧
    ¬outOfOrder dataPending .wack := by
  refine ⟨⟨_, _, rfl, rfl, by decide⟩, ?_⟩; unfold outOfOrder; decide

/-! ## Witnesses: the unit over a command -/

/-- The invariant holds of a unit in the middle of a walk, and of one that has failed. -/
theorem wit_unitOk :
    (∀ u ∈ [authPending, sectorOpen, dataPending, onTrailer,
      (⟨.failed, false, 2, 12, 96, 0, 1, 12⟩ : UnitState), .reset], (withUnit u).UnitOk) := by
  intro u hu
  have h : u = authPending ∨ u = sectorOpen ∨ u = dataPending ∨ u = onTrailer ∨
      u = ⟨.failed, false, 2, 12, 96, 0, 1, 12⟩ ∨ u = .reset := by simpa using hu
  rcases h with rfl | rfl | rfl | rfl | rfl | rfl <;>
    exact ⟨by decide, ⟨by decide, by decide, by decide, by decide, by decide, by decide, by decide, by decide,
      by decide, by decide⟩⟩

theorem wit_inactive : UnitState.reset.phase = .done ∧ (∃ t, exec .wstop .reset = .next t) ∧
    ∃ t, exec (.winit 2 0) .reset = .next t := ⟨rfl, ⟨_, rfl⟩, ⟨_, rfl⟩⟩

theorem wit_opensASector : ∃ t, exec (.wauth true) (withUnit authPending) = .next t ∧
    t.unit.phase = .transferring := ⟨_, rfl, rfl⟩

/-- The cursor moves on a trailer and on an acknowledgement, the counter on the latter alone. -/
theorem wit_cursor :
    (∃ t, exec .wnext (withUnit onTrailer) = .next t ∧ t.unit.bidx = 8 ∧ t.unit.bcnt = 48) ∧
    ∃ t, exec .wack (withUnit dataPending) = .next t ∧ t.unit.bidx = 5 ∧ t.unit.bcnt = 16 :=
  ⟨⟨_, rfl, rfl, rfl⟩, ⟨_, rfl, rfl, rfl⟩⟩

theorem wit_errorEntry : ∃ t, exec (.wauth false) (withUnit authPending) = .next t ∧
    authPending.phase ≠ .failed ∧ t.unit.phase = .failed := ⟨_, rfl, by decide, rfl⟩

theorem wit_pendingYield : dataPending.pend = true ∧ ∃ t, exec .wnext (withUnit dataPending) = .next t :=
  ⟨rfl, ⟨_, rfl⟩⟩

theorem wit_dataYield : ∃ t r, exec .wnext (withUnit sectorOpen) = .next t ∧ t.rsps = r :: [] ∧ r.st = 0 ∧
    r.flagA = false ∧ r.flagS = false ∧ r.flagD = false := by
  refine ⟨_, _, rfl, rfl, ?_, ?_, ?_, ?_⟩ <;> decide

/-! ## Witnesses: the machine -/

theorem wit_commandsKeep : ∃ t, exec .wack (withUnit dataPending) = .next t := ⟨_, rfl⟩

theorem wit_stepsKeep : ∃ t, step { ported 0xC0000000 0 with unit := dataPending } = .next t ∧
    t.unit = walking .transferring false 0 5 16 16 := ⟨_, rfl, rfl⟩

theorem wit_reset : { withUnit dataPending with rst := true }.rst = true ∧
    (let s : State := { withUnit dataPending with host := [.reset] }
     s.rst = false ∧ s.seq = .idle ∧ s.host = [.reset]) := by decide

theorem wit_afterReset : State.reset.unit = State.reset.unit ∧ Instr.wnext.wellFormed = true ∧
    Instr.wstat.wellFormed = true := ⟨rfl, rfl, rfl⟩

/-- The reset machine, asked for something of the reader, which has an answer ready. -/
def asked (a : HostAct) (r : List ReaderInput) : State := { State.reset with host := [a], reader := r }

/-- Block 63 is the last one there is; granted and refused. -/
theorem wit_primitives :
    (let s := asked (.write 63 short9) [.grant]
     s.rst = false ∧ s.seq = .idle ∧ s.host = [.write 63 short9] ∧ (63 : BitVec 8).toNat ≤ 63 ∧
       Memory.wf s.medium = true ∧ s.reader = [.grant]) ∧
    (asked (.write 63 short9) [.deny fe15]).reader = [.deny fe15] ∧
    (let s := asked (.read 63) [.grant]
     s.rst = false ∧ s.seq = .idle ∧ s.host = [.read 63] ∧ s.reader = [.grant]) ∧
    (let s := asked (.auth ⟨7⟩ 60) [.grant]
     s.rst = false ∧ s.seq = .idle ∧ s.host = [.auth ⟨7⟩ 60] ∧ s.reader = [.grant]) ∧
    (asked (.read 63) [.deny 0]).reader = [.deny 0] ∧ (asked (.auth ⟨7⟩ 60) [.deny 0]).reader = [.deny 0] ∧
    (let s := asked (.read 64) []
     s.rst = false ∧ s.seq = .idle ∧ 63 < (64 : BitVec 8).toNat ∧ s.host = [.read 64]) := by decide

/-- A read-setup over a block with its type byte, one with another byte, and one of zeros. -/
theorem wit_setup :
    (let s : State := { State.reset with seq := .setupFfs ⟨7⟩ false short9 }
     s.rst = false ∧ s.seq = .setupFfs ⟨7⟩ false short9 ∧ (∀ i, i < 2 → blockByte short9 i = 0x00) ∧
       blockByte short9 2 = 0x03) ∧
    ((∀ i, i < 2 → blockByte bad01 i = 0x00) ∧ blockByte bad01 2 ≠ 0x00 ∧ blockByte bad01 2 ≠ 0x03) ∧
    ((∀ i, i < 15 → blockByte 0 i = 0x00) ∧ blockByte 0 15 = 0x00) := by decide

theorem wit_writeUri : (asked (.writeUri ⟨7⟩ "https://x") []).host = [.writeUri ⟨7⟩ "https://x"] ∧
    (asked (.writeUri ⟨7⟩ "https://x") []).seq = .idle ∧ (asked (.writeUri ⟨7⟩ "https://x") []).rst = false :=
  ⟨rfl, rfl, rfl⟩

theorem wit_longPayload :
    (∀ n ∈ [65535, 65536], (asked (.writeFrame ⟨7⟩ (List.replicate n 0x41)) []).host =
      [.writeFrame ⟨7⟩ (List.replicate n 0x41)]) ∧
    65535 < (List.replicate 65536 (0x41 : Byte)).length ∧ (List.replicate 65535 (0x41 : Byte)).length ≤ 65535 := by
  refine ⟨fun _ _ => rfl, ?_⟩; simp only [List.length_replicate]; decide

/-- A machine that has opened sector 1 and is about to transfer block 4. -/
def transferring (mode : BitVec 2) (job : Job) : State :=
  { State.reset with
    unit := walking .transferring true mode 4 0 16
    seq := .walkData ⟨⟨7⟩, job⟩ 4 0
    reader := [.grant]
    calls := [.auth ⟨7⟩ 4 .keyB [0xFF, 0xFF, 0xFF, 0xFF, 0xFF, 0xFF] true] }

theorem transferring_unitOk (mode : BitVec 2) (job : Job) (h : mode = 0 ∨ mode = 1 ∨ mode = 2) :
    (transferring mode job).UnitOk := by
  have inv (m : BitVec 2) (hm : m ≠ 3) : UnitInv 63 (walking .transferring true m 4 0 16) := by
    exact ⟨by simp [walking], by simp [walking, Phase.active], by simp [walking], by simp [walking],
      by simp [walking],
      by simp [walking], by simp [walking], by simp [walking], hm, by simp [walking]⟩
  exact ⟨⟨Nat.le_of_ble_eq_true rfl, Nat.le_of_ble_eq_true rfl⟩,
    inv mode (by rcases h with rfl | rfl | rfl <;> decide)⟩

theorem wit_transfers : (transferring 0 (.read 4 [] false)).TransfersOk ∧
    ∃ t, step (transferring 0 (.read 4 [] false)) = .next t :=
  ⟨⟨transferring_unitOk _ _ (.inl rfl), by simp [transferring, State.reset],
    by simp [transferring, Seq.callLegal, authedSector, walking, isDataBlock],
    by simp [transferring, ReaderCall.touchesDataOnly, isSectorHead],
    by simp [transferring, transfersAuthenticated]⟩, ⟨_, rfl⟩⟩

theorem wit_writeBegins : (65535 : Nat) = (List.replicate 65535 (0x41 : Byte)).length ∧
    { State.reset with seq := .encoding ⟨7⟩ [0x41] }.seq = .encoding ⟨7⟩ [0x41] := by
  refine ⟨(List.length_replicate ..).symm, rfl⟩

theorem wit_readBegins : { State.reset with seq := .sizing ⟨7⟩ false 65535 4 }.seq = .sizing ⟨7⟩ false 65535 4 := rfl

theorem wit_writeOk : (transferring 1 (.write [short9])).WriteOk [] (.write [short9]) ∧
    ∃ t, step (transferring 1 (.write [short9])) = .next t :=
  ⟨⟨transferring_unitOk _ _ (.inr (.inl rfl)), rfl, rfl, rfl, rfl, by simp [transferring, quietReader],
    ⟨rfl, ⟨rfl, rfl, by simp [transferring, walking]⟩, ⟨rfl, rfl⟩, rfl, rfl,
      ⟨fun _ h => absurd h (by simp [transferring, walking]), fun _ _ _ => rfl⟩⟩⟩, ⟨_, rfl⟩⟩

theorem wit_formatOk : (transferring 2 .format).WriteOk [] .format ∧
    ∃ t, step (transferring 2 .format) = .next t :=
  ⟨⟨transferring_unitOk _ _ (.inr (.inr rfl)), rfl, rfl, rfl, rfl, by simp [transferring, quietReader],
    ⟨rfl, ⟨rfl, rfl, by simp⟩, ⟨rfl, rfl⟩, rfl, rfl,
      ⟨fun _ h => absurd h (by simp [transferring, walking]), fun _ _ _ => rfl⟩⟩⟩, ⟨_, rfl⟩⟩

/-- The ends of an operation that failed: a refused authentication of sector 3 (P3), a refused write of block 8
(P4), a write past the last block (V-END), each over a medium that already holds what the account asks for. -/
theorem wit_failures :
    FailureLeaves [] .format 0 .reset 1 12 ∧
    FailureLeaves [] (.write [0]) 0 { State.reset with calls := [.write 8 0 false] } 2 8 ∧
    FailureLeaves [] (.write [0]) 0 .reset 2 64 :=
  ⟨.inl ⟨rfl, fun _ h => absurd h (Nat.not_lt_zero _), fun _ _ _ => rfl⟩,
    .inr (.inr ⟨rfl, ⟨0, rfl⟩, fun _ h => absurd h (Nat.not_lt_zero _), fun _ _ _ => rfl⟩),
    .inr (.inl ⟨rfl, ⟨_, rfl⟩, rfl, fun _ h => absurd h (Nat.not_lt_zero _), fun _ _ _ => rfl⟩)⟩

theorem wit_readOk : (transferring 0 (.read 4 [] false)).ReadOk [] 4 false ∧
    ∃ t, step (transferring 0 (.read 4 [] false)) = .next t :=
  ⟨⟨rfl, transferring_unitOk _ _ (.inl rfl), rfl, rfl, by simp [transferring, quietReader],
    ⟨⟨[], rfl, ⟨rfl, by simp⟩, rfl⟩, ⟨rfl, rfl⟩, ⟨rfl, rfl⟩, rfl, rfl⟩⟩, ⟨_, rfl⟩⟩

theorem wit_canonicalMedium : Memory.wf [(64, 0x03), (65, 0xFF)] = true ∧
    ∃ t, step { transferring 2 .format with medium := [(64, 0x03), (65, 0xFF)] } = .next t :=
  ⟨by decide, ⟨_, rfl⟩⟩

end Sys2Proof.Tests
end

section
/-! SUPPORT. The frame and its chunks: the four header bytes, the payload, the terminator, and the cut into
blocks (30_encoding.md R85, R86). -/

namespace Sys2Proof.Machine

/-! ## The header bytes (R85) -/

theorem isShortForm_ofNat (n : Nat) (hn : n ≤ 65535) :
    isShortForm (BitVec.ofNat 16 n) = decide (n < 255) := by
  have hmod : n % 2 ^ 16 = n := Nat.mod_eq_of_lt (by omega)
  rw [isShortForm, BitVec.toNat_ofNat, hmod]
  rfl

theorem lowByte_ofNat (n : Nat) : lowByte (BitVec.ofNat 16 n) = BitVec.ofNat 8 (n % 256) := by
  rw [← BitVec.toNat_inj, lowByte, field_toNat]
  simp only [BitVec.toNat_ofNat]
  omega

theorem highByte_ofNat (n : Nat) : highByte (BitVec.ofNat 16 n) = BitVec.ofNat 8 (n / 256) := by
  rw [← BitVec.toNat_inj, highByte, field_toNat]
  simp only [BitVec.toNat_ofNat]
  omega

theorem headerBytes_length (n : Arg) : (headerBytes n).length = 4 := by
  unfold headerBytes
  split <;> rfl

theorem headerBytes_short (n : Nat) (hn : n < 255) :
    headerBytes (BitVec.ofNat 16 n) = [0x00, 0x00, 0x03, BitVec.ofNat 8 n] := by
  have hshort : isShortForm (BitVec.ofNat 16 n) = true := by
    rw [isShortForm_ofNat n (by omega), decide_eq_true hn]
  rw [headerBytes, if_pos hshort, lowByte_ofNat, Nat.mod_eq_of_lt (by omega)]
  rfl

theorem headerBytes_long (n : Nat) (hn : 255 ≤ n) (hmax : n ≤ 65535) :
    headerBytes (BitVec.ofNat 16 n) = [0x03, 0xFF, BitVec.ofNat 8 (n / 256), BitVec.ofNat 8 (n % 256)] := by
  have hlong : ¬isShortForm (BitVec.ofNat 16 n) = true := by
    rw [isShortForm_ofNat n hmax, decide_eq_true_iff]
    omega
  rw [headerBytes, if_neg hlong, lowByte_ofNat, highByte_ofNat]
  rfl

/-! ## The frame (R85): true of every payload, as the lead is always four bytes -/

theorem frame_length (p : List Byte) : (frame p).length = p.length + 5 := by
  simp only [frame, frameWith, List.length_append, headerBytes_length, List.length_singleton]
  omega

theorem frame_take_header (p : List Byte) :
    (frame p).take 4 = headerBytes (BitVec.ofNat 16 p.length) := by
  rw [frame, frameWith, List.append_assoc]
  exact List.take_left' (headerBytes_length _)

theorem frame_getD_after_header (p : List Byte) (i : Nat) :
    (frame p).getD (4 + i) 0 = (p ++ [Config.tlvTerminator]).getD i 0 := by
  rw [frame, frameWith, List.append_assoc,
    List.getD_append_right _ _ _ _ (by rw [headerBytes_length]; omega), headerBytes_length,
    Nat.add_sub_cancel_left]

theorem frame_getD_payload (p : List Byte) (i : Nat) (hi : i < p.length) :
    (frame p).getD (4 + i) 0 = p.getD i 0 := by
  rw [frame_getD_after_header, List.getD_append _ _ _ _ hi]

theorem frame_getD_terminator (p : List Byte) : (frame p).getD (p.length + 4) 0 = 0xFE := by
  rw [Nat.add_comm, frame_getD_after_header, List.getD_append_right _ _ _ _ le_rfl, Nat.sub_self]
  rfl

/-- Settles O22: the header lemma of each form, and the frame read at the lead, in the payload and behind it. -/
theorem frameLayout : Obligations.FrameLayout := by
  intro p hmax
  refine ⟨frame_length p, fun hshort => ?_, fun hlong => ?_, frame_getD_payload p, frame_getD_terminator p⟩
  · rw [frame_take_header, headerBytes_short _ hshort]
  · rw [frame_take_header, headerBytes_long _ hlong hmax]

/-! ## The chunks (R86) -/

/-- Byte `j` of chunk `k` is byte `16 k + j` of the list, zero beyond its end. -/
theorem blockByte_chunk (fr : List Byte) (k j : Nat) (hj : j < 16) :
    blockByte (chunk fr k) j = fr.getD (16 * k + j) 0 := by
  have hj' : j < Config.blockSize := hj
  rw [chunk, blockByte_ofBytes _ _ hj, List.getD_eq_getElem?_getD, List.getElem?_take_of_lt hj',
    List.getElem?_drop, ← List.getD_eq_getElem?_getD]
  rfl

theorem chunksOf_length (fr : List Byte) (count : Nat) : (chunksOf fr count).length = count := by
  simp [chunksOf]

theorem chunksOf_getD (fr : List Byte) (count k : Nat) (hk : k < count) :
    (chunksOf fr count).getD k 0 = chunk fr k := by
  simp [chunksOf, hk]

theorem frameChunks_length (p : List Byte) : (frameChunks p).length = (p.length + 5 + 15) / 16 :=
  chunksOf_length _ _

/-- Settles O23: a chunk is a window of sixteen bytes of the frame. -/
theorem chunksCoverTheFrame : Obligations.ChunksCoverTheFrame := by
  intro p _
  refine ⟨frameChunks_length p, fun k j hk hj => ?_⟩
  rw [frameChunks, chunksOf_length] at hk
  rw [frameChunks, chunksOf_getD _ _ _ hk, blockByte_chunk _ _ _ hj]

end Sys2Proof.Machine
end

section
/-! SUPPORT. Which command words are refused (30_encoding.md R97, R100): the decoder and the two value tests of
`WINIT` and `WFAIL` together reject the words that `IllegalWord` names, and no other command answers status 8. -/

namespace Sys2Proof.Machine

/-! ## Which words stand for a legal command -/

/-- A word was decoded to a command whose operands R97 allows. -/
def Accepts (d : Except DecodeError Instr) : Prop := ∃ i, d = .ok i ∧ i.wellFormed = true

theorem accepts_ok (i : Instr) : Accepts (.ok i) ↔ i.wellFormed = true :=
  ⟨fun ⟨_, hi, hw⟩ => by cases hi; exact hw, fun hw => ⟨i, rfl, hw⟩⟩

theorem not_accepts_error (e : DecodeError) : ¬Accepts (.error e) := fun ⟨_, hi, _⟩ => nomatch hi

/-- A field test of the decoder in front of a command. -/
theorem accepts_ite (c : Prop) [Decidable c] (i : Instr) (e : DecodeError) :
    Accepts (if c then .ok i else .error e) ↔ c ∧ i.wellFormed = true := by
  by_cases hc : c
  · rw [if_pos hc, accepts_ok, and_iff_right hc]
  · rw [if_neg hc]
    exact iff_of_false (not_accepts_error e) fun h => hc h.1

/-- A field that must be zero, as a number (R97). -/
theorem field_eq_zero_iff {n : Nat} (w : BitVec n) (lo len : Nat) :
    w.extractLsb' lo len = 0 ↔ w.toNat / 2 ^ lo % 2 ^ len = 0 := by
  rw [← BitVec.toNat_inj, field_toNat]
  simp

theorem legalMode_iff (m : BitVec 2) : legalMode m = true ↔ m.toNat ≠ 3 := by
  simp [legalMode, ← BitVec.toNat_inj]

theorem legalCode_iff (c : BitVec 3) : legalCode c = true ↔ c.toNat ≠ 0 ∧ c.toNat ≠ 7 := by
  simp [legalCode, ← BitVec.toNat_inj]

theorem accepts_noArg (arg : Arg) (i : Instr) (hi : i.wellFormed = true) :
    Accepts (noArg arg i) ↔ arg.toNat = 0 := by
  rw [noArg, accepts_ite, and_iff_left hi, ← BitVec.toNat_inj]
  rfl

theorem accepts_decodeDechdr (arg : Arg) (blk : Block) :
    Accepts (decodeDechdr arg blk) ↔ arg.toNat ≤ 15 := by
  have := arg.isLt
  rw [decodeDechdr, accepts_ite, and_iff_left (by rfl), field_eq_zero_iff]
  omega

theorem accepts_decodeWinit (arg : Arg) :
    Accepts (decodeWinit arg) ↔ arg.toNat / 2 ^ 14 ≠ 3 ∧ arg.toNat / 2 ^ 13 % 2 ≠ 1 := by
  have := arg.isLt
  rw [decodeWinit, accepts_ite, field_eq_zero_iff, Instr.wellFormed, legalMode_iff, field_toNat]
  omega

theorem accepts_decodeWauth (arg : Arg) : Accepts (decodeWauth arg) ↔ arg.toNat ≤ 1 := by
  have := arg.isLt
  rw [decodeWauth, accepts_ite, and_iff_left (by rfl), field_eq_zero_iff]
  omega

theorem accepts_decodeWfail (arg : Arg) :
    Accepts (decodeWfail arg) ↔ arg.toNat % 8 ≠ 0 ∧ arg.toNat % 8 ≠ 7 ∧ arg.toNat ≤ 7 := by
  have := arg.isLt
  rw [decodeWfail, accepts_ite, field_eq_zero_iff, Instr.wellFormed, legalCode_iff, field_toNat]
  omega

/-- The operands that R97 does not allow for an opcode: the clauses of `IllegalWord` behind `OP` and `Z`. -/
def IllegalOperand (op arg : Nat) : Prop :=
  ((op = 0x4 ∨ op = 0x7 ∨ op = 0xA ∨ op = 0xC ∨ op = 0xD ∨ op = 0xF) ∧ arg ≠ 0) ∨
  (op = 0x5 ∧ 15 < arg) ∨
  (op = 0x9 ∧ (arg / 2 ^ 14 = 3 ∨ arg / 2 ^ 13 % 2 = 1)) ∨
  (op = 0xB ∧ 1 < arg) ∨
  (op = 0xE ∧ (arg % 8 = 0 ∨ arg % 8 = 7 ∨ 7 < arg))

theorem illegalWord_iff (cw : CmdWord) : IllegalWord cw ↔
    opField cw = 0 ∨ zField cw ≠ 0 ∨ IllegalOperand (opField cw).toNat (argField cw).toNat := by
  have hop : (opField cw).toNat = cw.toNat / 2 ^ 28 := by
    have := cw.isLt
    rw [opField, field_toNat]
    omega
  have hz : zField cw = 0 ↔ cw.toNat / 2 ^ 16 % 2 ^ 12 = 0 := field_eq_zero_iff cw 16 12
  have harg : (argField cw).toNat = cw.toNat % 2 ^ 16 := by
    rw [argField, field_toNat, Nat.pow_zero, Nat.div_one]
  rw [← BitVec.toNat_inj, ne_eq, hz, hop, harg]
  rfl

/-- Row by row of the opcode table (R96, R97). -/
theorem accepts_decodeOp (op : BitVec 4) (arg : Arg) (blk : Block) (hop : op.toNat ≠ 0) :
    Accepts (decodeOp op arg blk) ↔ ¬IllegalOperand op.toNat arg.toNat := by
  have := op.isLt
  unfold decodeOp IllegalOperand
  split
  case h_1 | h_2 | h_3 | h_6 | h_8 =>
    rw [accepts_ok]
    exact iff_of_true rfl (by omega)
  case h_4 | h_7 | h_10 | h_12 | h_13 | h_15 =>
    rw [accepts_noArg _ _ rfl]
    omega
  case h_5 =>
    rw [accepts_decodeDechdr]
    omega
  case h_9 =>
    rw [accepts_decodeWinit]
    omega
  case h_11 =>
    rw [accepts_decodeWauth]
    omega
  case h_14 =>
    rw [accepts_decodeWfail]
    omega
  case h_16 =>
    simp only [imp_false] at *
    exfalso
    omega

/-- The decoder and the commands' value tests accept exactly the words that are not illegal (R100). -/
theorem accepts_decode (cw : CmdWord) (blk : Block) : Accepts (decode cw blk) ↔ ¬IllegalWord cw := by
  rw [illegalWord_iff, decode]
  by_cases hop : opField cw = 0
  · rw [if_pos hop]
    exact iff_of_false (not_accepts_error _) fun h => h (.inl hop)
  · rw [if_neg hop]
    by_cases hz : zField cw = 0
    · have hop' : (opField cw).toNat ≠ 0 := fun h => hop (BitVec.eq_of_toNat_eq h)
      rw [if_pos hz, accepts_decodeOp _ _ _ hop', or_iff_right hop, or_iff_right (not_not_intro hz)]
    · rw [if_neg hz]
      exact iff_of_false (not_accepts_error _) fun h => h (.inr (.inl hz))

/-! ## What a command answers -/

/-- The status of R211 with the number 8 is `IllegalCommand`. -/
theorem Status.code_eq_eight_iff (e : Status) : e.code = 8 ↔ e = .illegalCommand := by
  cases e <;> decide

/-- The outcome is one response of a named status other than `IllegalCommand`, over some record of the unit. -/
def RespondsLegally (s : State) (o : Outcome) : Prop :=
  ∃ (u : UnitState) (e : Status) (v0 v1 : BitVec 32),
    o = .next ((s.withUnit u).respond e.code v0 v1) ∧ e ≠ .illegalCommand

theorem RespondsLegally.of_succeed (s : State) (u : UnitState) (v0 v1 : BitVec 32) :
    RespondsLegally s (.next ((s.withUnit u).succeed v0 v1)) :=
  ⟨u, .ok, v0, v1, rfl, by decide⟩

theorem RespondsLegally.of_raise (s : State) (e : Status) (he : e ≠ .illegalCommand) :
    RespondsLegally s (.next (s.raise e)) :=
  ⟨s.unit, e, 0, 0, rfl, he⟩

/-- What was written to the unit before does not matter. -/
theorem RespondsLegally.of_withUnit {s : State} {u : UnitState} {o : Outcome}
    (h : RespondsLegally (s.withUnit u) o) : RespondsLegally s o := h

/-- `FFS` fails with its own two kinds only (R121). -/
theorem scanFrameStart_error (l : List Byte) (i : Nat) (e : Status) (h : scanFrameStart l i = .error e) :
    e = .malformedTlv ∨ e = .unknownTlvType := by
  induction l generalizing i with
  | nil => cases h; exact .inl rfl
  | cons v vs ih =>
    rw [scanFrameStart] at h
    split at h
    · exact ih _ h
    · split at h
      · cases h
      · cases h; exact .inr rfl

/-- `DECHDR` fails with `MalformedTlv` only (R122). -/
theorem decodeHeader_error (b : Block) (o : Nat) (e : Status) (h : decodeHeader b o = .error e) :
    e = .malformedTlv := by
  unfold decodeHeader at h
  repeat' split at h
  all_goals cases h
  all_goals rfl

theorem execFfs_respondsLegally (blk : Block) (s : State) : RespondsLegally s (execFfs blk s) := by
  unfold execFfs
  split
  next => exact .of_succeed s s.unit _ _
  next e h =>
    refine .of_raise s e ?_
    rcases scanFrameStart_error _ _ _ h with rfl | rfl <;> decide

theorem execDechdr_respondsLegally (o : BitVec 4) (blk : Block) (s : State) :
    RespondsLegally s (execDechdr o blk s) := by
  unfold execDechdr
  split
  next => exact .of_succeed s s.unit _ _
  next e h =>
    refine .of_raise s e ?_
    rw [decodeHeader_error _ _ _ h]
    decide

theorem yieldNext_respondsLegally (u : UnitState) (v0 : BitVec 32) (s : State) :
    RespondsLegally s (yieldNext u v0 s) := .of_succeed s u _ _

theorem failNext_respondsLegally (e : Status) (s : State) (he : e ≠ .illegalCommand) :
    RespondsLegally s (failNext e s) := ⟨_, e, _, _, rfl, he⟩

theorem classifyNext_respondsLegally (s : State) : RespondsLegally s (classifyNext s) := by
  rcases classifyNext_cases s with ⟨-, h⟩ | ⟨-, -, h⟩ | ⟨-, -, h⟩ <;> rw [h] <;>
    exact yieldNext_respondsLegally _ _ s

theorem execWnext_respondsLegally (s : State) : RespondsLegally s (execWnext s) := by
  dsimp only [execWnext]
  split
  next => exact .of_raise s _ (by decide)
  split
  next => exact yieldNext_respondsLegally _ _ s
  split
  next =>
    split
    next => exact yieldNext_respondsLegally _ _ s
    split
    next => exact failNext_respondsLegally _ s (by decide)
    split
    next => exact failNext_respondsLegally _ s (by decide)
    next => exact .of_withUnit (classifyNext_respondsLegally _)
  next => exact classifyNext_respondsLegally s

theorem execWauth_respondsLegally (ok : Bool) (s : State) : RespondsLegally s (execWauth ok s) := by
  dsimp only [execWauth]
  split
  next =>
    split
    next => exact .of_succeed s _ _ _
    next => exact .of_succeed s _ _ _
  next => exact .of_raise s _ (by decide)

theorem execWack_respondsLegally (s : State) : RespondsLegally s (execWack s) := by
  dsimp only [execWack]
  split
  next => exact .of_succeed s _ _ _
  next => exact .of_raise s _ (by decide)

theorem execWstop_respondsLegally (s : State) : RespondsLegally s (execWstop s) := by
  unfold execWstop
  split
  next => exact .of_succeed s _ _ _
  next => exact .of_raise s _ (by decide)

theorem execWinit_respondsLegally (m : BitVec 2) (k : BitVec 13) (s : State) (hm : legalMode m = true) :
    RespondsLegally s (execWinit m k s) := by
  rw [execWinit, if_pos hm]
  exact .of_succeed s _ _ _

theorem execWfail_respondsLegally (c : BitVec 3) (s : State) (hc : legalCode c = true) :
    RespondsLegally s (execWfail c s) := by
  rw [execWfail, hc, if_neg (by decide)]
  split
  next => exact .of_succeed s _ _ _
  next => exact .of_raise s _ (by decide)

/-- A command within R97 completes with one response, whose status is not `IllegalCommand`. -/
theorem exec_respondsLegally (i : Instr) (s : State) (hi : i.wellFormed = true) :
    RespondsLegally s (exec i s) := by
  cases i with
  | locate n => exact .of_succeed s s.unit _ _
  | istrl n => exact .of_succeed s s.unit _ _
  | isstart n => exact .of_succeed s s.unit _ _
  | ffs blk => exact execFfs_respondsLegally blk s
  | dechdr o blk => exact execDechdr_respondsLegally o blk s
  | enchdr n => exact .of_succeed s s.unit _ _
  | fterm blk => exact .of_succeed s s.unit _ _
  | bufsz n => exact .of_succeed s s.unit _ _
  | winit m k => exact execWinit_respondsLegally m k s hi
  | wnext => exact execWnext_respondsLegally s
  | wauth ok => exact execWauth_respondsLegally ok s
  | wack => exact execWack_respondsLegally s
  | wstop => exact execWstop_respondsLegally s
  | wfail c => exact execWfail_respondsLegally c s hi
  | wstat => exact .of_succeed s s.unit _ _

/-- The two commands that test a value themselves refuse what R97 does not allow (R151, R156). -/
theorem exec_illFormed (i : Instr) (s : State) (hi : i.wellFormed = false) :
    exec i s = .next (s.raise .illegalCommand) := by
  cases i with
  | winit m k =>
    have hm : legalMode m = false := hi
    rw [exec, execWinit, hm]
    rfl
  | wfail c =>
    have hc : legalCode c = false := hi
    rw [exec, execWfail, hc]
    rfl
  | _ => cases hi

/-! ## The command port -/

theorem runCommand_illegal (cw : CmdWord) (blk : Block) (s : State) (hw : IllegalWord cw) :
    runCommand cw blk s = .next (s.raise .illegalCommand) := by
  have hrej : ¬Accepts (decode cw blk) := fun h => (accepts_decode cw blk).1 h hw
  unfold runCommand
  split
  next i hi =>
    rw [hi, accepts_ok, Bool.not_eq_true] at hrej
    exact exec_illFormed i s hrej
  next => rfl

theorem runCommand_legal (cw : CmdWord) (blk : Block) (s : State) (hw : ¬IllegalWord cw) :
    RespondsLegally s (runCommand cw blk s) := by
  obtain ⟨i, hi, hwf⟩ := (accepts_decode cw blk).2 hw
  rw [runCommand, hi]
  exact exec_respondsLegally i s hwf

/-- A command on the port is what the next step runs, once it is taken off the host's list (R16, R94). -/
theorem step_onPort (s : State) (cw : CmdWord) (blk : Block) (rest : List HostAct) (h : OnPort s cw blk rest) :
    step s = runCommand cw blk (s.served rest) := by
  obtain ⟨hrst, hseq, hhost⟩ := h
  simp only [step, hrst, hseq, hostStep, hhost, hostAct, Bool.false_eq_true, if_false, if_true]

/-- Settles O4: the decoder and the two value tests refuse exactly the illegal words, and every other command
answers with a status that is not 8. -/
theorem illegalWordsAnsweredEight : Obligations.IllegalWordsAnsweredEight := by
  intro s cw blk rest hport
  rw [step_onPort s cw blk rest hport]
  refine ⟨fun hw => runCommand_illegal cw blk _ hw, fun hw => ?_⟩
  obtain ⟨u, e, v0, v1, hrun, he⟩ := runCommand_legal cw blk (s.served rest) hw
  exact ⟨_, _, hrun, rfl, fun h8 => he ((Status.code_eq_eight_iff e).1 h8)⟩

end Sys2Proof.Machine
end

section
/-! SUPPORT. The sector geometry commands (40_sector_geometry.md R110 to R112), and how a word that is its opcode
with an operand under it decodes, and which words of an opcode are refused (30_encoding.md R95, R100). -/

namespace Sys2Proof.Machine

open Sys2Proof.Laws

/-! ## Words of one opcode -/

/-- A command word as its opcode with the operand under it (R95). -/
theorem opcode_or_arg (op : BitVec 4) (arg : Arg) :
    (op ++ 0#28) ||| arg.setWidth 32 = op ++ 0#12 ++ arg := by
  have ha : arg.toNat < 2 ^ 28 := lt_trans arg.isLt (by decide)
  have harg : arg.toNat % 2 ^ 32 = arg.toNat := Nat.mod_eq_of_lt (lt_trans ha (by decide))
  rw [← BitVec.toNat_inj, BitVec.toNat_or, BitVec.toNat_setWidth, harg]
  simp only [append_toNat, BitVec.toNat_ofNat, Nat.zero_mod, Nat.add_zero]
  rw [Nat.mul_comm, ← Nat.two_pow_add_eq_or_of_lt ha]
  omega

/-- A word with `Z = 0` is decoded by its row of the opcode table (R95, R96). -/
theorem decode_opcode_or_arg (op : BitVec 4) (hop : op ≠ 0) (arg : Arg) (blk : Block) :
    decode ((op ++ 0#28) ||| arg.setWidth 32) blk = decodeOp op arg blk := by
  obtain ⟨hopField, hzField, hargField⟩ := ReservedZero.fields op arg
  rw [opcode_or_arg, decode, hopField, hzField, hargField, if_neg hop, if_pos rfl]

/-- An opcode refuses with `IllegalCommand` what `IllegalWord` names of its words (R100). -/
theorem refusesIllegal_of_illegalWord (op : Nat) (bad : Nat → Prop)
    (hbad : ∀ cw : CmdWord, cw.toNat / 2 ^ 28 = op → bad (cw.toNat % 2 ^ 16) → IllegalWord cw) :
    RefusesIllegal op bad := by
  rintro cw blk s hop (hz | harg)
  · exact runCommand_illegal cw blk s (.inr (.inl hz))
  · exact runCommand_illegal cw blk s (hbad cw hop harg)

/-- An opcode that takes every operand refuses the words whose `Z` is not zero (R97, R100). -/
theorem refusesIllegal_reservedBits (op : Nat) : RefusesIllegal op fun _ => False :=
  refusesIllegal_of_illegalWord op _ fun _ _ => False.elim

/-! ## What the commands answer (R110 to R112) -/

theorem locate_answers (n : Arg) (s : State) :
    Answers (.locate n) s s.unit ⟨0, (sectorOf n).setWidth 32, (subBlockOf n).setWidth 32⟩ := rfl

theorem istrl_answers (n : Arg) (s : State) :
    Answers (.istrl n) s s.unit ⟨0, (BitVec.ofBool (isTrailer n)).setWidth 32, 0⟩ := rfl

theorem isstart_answers (n : Arg) (s : State) :
    Answers (.isstart n) s s.unit ⟨0, (BitVec.ofBool (isSectorStart n)).setWidth 32, 0⟩ := rfl

/-- The sector in a response word loses nothing. -/
theorem sectorWord_toNat (n : Arg) : ((sectorOf n).setWidth 32).toNat = n.toNat / 4 := by
  rw [BitVec.toNat_setWidth_of_le (by decide), sectorOf_toNat]

/-- The sub-block in a response word loses nothing. -/
theorem subBlockWord_toNat (n : Arg) : ((subBlockOf n).setWidth 32).toNat = n.toNat % 4 := by
  rw [BitVec.toNat_setWidth_of_le (by decide), subBlockOf_toNat]

/-- The word of a yes-or-no answer: 1 for yes, 0 for no (R99). -/
theorem answerWord_toNat {b : Bool} {p : Prop} [Decidable p] (h : b = true ↔ p) :
    ((BitVec.ofBool b).setWidth 32).toNat = if p then 1 else 0 := by
  rw [BitVec.toNat_setWidth_of_le (by decide), ofBool_toNat]
  by_cases hp : p
  · rw [if_pos hp, h.2 hp, Bool.toNat_true]
  · rw [if_neg hp, Bool.eq_false_iff.2 (mt h.1 hp), Bool.toNat_false]

/-- Settles O12: quotient and remainder by four, and the opcode row of `LOCATE`. -/
theorem locateMapsTheBlockIndex : Obligations.LocateMapsTheBlockIndex :=
  ⟨fun n s => ⟨_, locate_answers n s, rfl, sectorWord_toNat n, subBlockWord_toNat n⟩,
    decode_opcode_or_arg 0x1 (by decide), refusesIllegal_reservedBits 0x1⟩

/-- Settles O13: the trailer test is the comparison with 3 on all sixteen bits. -/
theorem istrlIsOneForThree : Obligations.IstrlIsOneForThree :=
  ⟨fun n s => ⟨_, istrl_answers n s, rfl, answerWord_toNat (isTrailer_iff n), rfl⟩,
    decode_opcode_or_arg 0x2 (by decide), refusesIllegal_reservedBits 0x2⟩

/-- Settles O14: the start test is the comparison with 0 on all sixteen bits. -/
theorem isstartIsOneForZero : Obligations.IsstartIsOneForZero :=
  ⟨fun n s => ⟨_, isstart_answers n s, rfl, answerWord_toNat (isSectorStart_iff n), rfl⟩,
    decode_opcode_or_arg 0x3 (by decide), refusesIllegal_reservedBits 0x3⟩

end Sys2Proof.Machine
end

section
/-! SUPPORT. The TLV codec commands (41_tlv_codec.md R121 to R124): each scan or decode as one equation per outcome,
and what the command answers for it. -/

namespace Sys2Proof.Machine

/-! ## FFS (R121) -/

theorem ffs_answers_of_found (b : Block) (s : State) (o : Nat) (h : scanFrameStart (blockBytes b) 0 = .ok o) :
    Answers (.ffs b) s s.unit ⟨0, BitVec.ofNat 32 o, 0⟩ := by
  rw [Answers, exec, execFfs, h]
  rfl

theorem ffs_answers_of_error (b : Block) (s : State) (e : Status)
    (h : scanFrameStart (blockBytes b) 0 = .error e) : Answers (.ffs b) s s.unit ⟨e.code, 0, 0⟩ := by
  rw [Answers, exec, execFfs, h]
  rfl

/-- The first byte of a block that is not zero decides. -/
theorem scanFrameStart_block (b : Block) (o : Nat) (ho : o < 16) (hz : ∀ i, i < o → blockByte b i = 0x00)
    (hn : blockByte b o ≠ 0x00) :
    scanFrameStart (blockBytes b) 0 = if blockByte b o = 0x03 then .ok o else .error .unknownTlvType := by
  rw [← blockBytes_getD b o ho] at hn ⊢
  have hz' : ∀ i, i < o → (blockBytes b).getD i 0 = 0 := fun i hi => by
    rw [blockBytes_getD b i (by omega), hz i hi]
  rw [scanFrameStart_at _ 0 o (by rwa [blockBytes_length]) hz' hn, Nat.zero_add]

theorem scanFrameStart_zeroBlock (b : Block) (hz : ∀ i, i < 16 → blockByte b i = 0x00) :
    scanFrameStart (blockBytes b) 0 = .error .malformedTlv :=
  scanFrameStart_zeros _ 0 fun i hi => by
    rw [blockBytes_length] at hi
    rw [blockBytes_getD b i hi, hz i hi]

/-- Settles O16: the first byte that is not zero is the type byte, another byte, or there is none. -/
theorem ffsFindsTheFirstTypeByte : Obligations.FfsFindsTheFirstTypeByte := by
  refine ⟨fun b s o ho hz => ⟨fun htype => ?_, fun hn hother => ?_⟩, fun b s hz => ?_,
    decode_opcode_or_arg 0x4 (by decide) 0, ?_⟩
  · have hn : blockByte b o ≠ 0x00 := by rw [htype]; decide
    exact ffs_answers_of_found b s o (by rw [scanFrameStart_block b o ho hz hn, if_pos htype])
  · exact ffs_answers_of_error b s .unknownTlvType (by rw [scanFrameStart_block b o ho hz hn, if_neg hother])
  · exact ffs_answers_of_error b s .malformedTlv (scanFrameStart_zeroBlock b hz)
  · exact refusesIllegal_of_illegalWord 0x4 _ fun cw hop harg => .inr (.inr (.inl ⟨.inl hop, harg⟩))

/-! ## DECHDR (R122) -/

theorem decodeHeader_otherType (b : Block) (o : Nat) (h : blockByte b o ≠ 0x03) :
    decodeHeader b o = .error .malformedTlv := if_pos h

/-- With the type byte at offset 15 there is no length byte (D8). -/
theorem decodeHeader_noLengthByte (b : Block) (o : Nat) (h : 15 ≤ o) :
    decodeHeader b o = .error .malformedTlv := by
  rw [decodeHeader, if_pos (show 15 < o + 1 by omega), ite_self]

/-- Behind a type byte the next byte says the form. -/
theorem decodeHeader_typeByte (b : Block) (o : Nat) (htype : blockByte b o = 0x03) (ho : o ≤ 14) :
    decodeHeader b o =
      if blockByte b (o + 1) = 0xFF then
        if 15 < o + 3 then .error .malformedTlv
        else .ok ⟨blockByte b (o + 2) ++ blockByte b (o + 3), o + 4, true⟩
      else .ok ⟨(blockByte b (o + 1)).setWidth 16, o + 2, false⟩ :=
  (if_neg (not_not_intro htype)).trans (if_neg (by omega))

theorem decodeHeader_short (b : Block) (o : Nat) (htype : blockByte b o = 0x03) (ho : o ≤ 14)
    (hshort : blockByte b (o + 1) ≠ 0xFF) :
    decodeHeader b o = .ok ⟨(blockByte b (o + 1)).setWidth 16, o + 2, false⟩ := by
  rw [decodeHeader_typeByte b o htype ho, if_neg hshort]

/-- At offset 13 or 14 the length of a long header lies past the block (D8). -/
theorem decodeHeader_longPastBlock (b : Block) (o : Nat) (htype : blockByte b o = 0x03) (hlow : 13 ≤ o)
    (ho : o ≤ 14) (hlong : blockByte b (o + 1) = 0xFF) : decodeHeader b o = .error .malformedTlv := by
  rw [decodeHeader_typeByte b o htype ho, if_pos hlong, if_pos (by omega)]

theorem decodeHeader_long (b : Block) (o : Nat) (htype : blockByte b o = 0x03) (ho : o ≤ 12)
    (hlong : blockByte b (o + 1) = 0xFF) :
    decodeHeader b o = .ok ⟨blockByte b (o + 2) ++ blockByte b (o + 3), o + 4, true⟩ := by
  rw [decodeHeader_typeByte b o htype (by omega), if_pos hlong, if_neg (by omega)]

theorem dechdr_answers_of_decoded (o : BitVec 4) (b : Block) (s : State) (h : Header)
    (hd : decodeHeader b o.toNat = .ok h) :
    Answers (.dechdr o b) s s.unit ⟨0, h.payloadLength.setWidth 32, packDecoded h⟩ := by
  rw [Answers, exec, execDechdr, hd]
  rfl

theorem dechdr_answers_of_malformed (o : BitVec 4) (b : Block) (s : State)
    (hd : decodeHeader b o.toNat = .error .malformedTlv) : Answers (.dechdr o b) s s.unit ⟨3, 0, 0⟩ := by
  rw [Answers, exec, execDechdr, hd]
  rfl

/-- The offset of the payload and the form in the second response word (R99). -/
theorem packDecoded_toNat (n : Arg) (start : Nat) (long : Bool) (hstart : start < 32) :
    (packDecoded ⟨n, start, long⟩).toNat = start + 2 ^ 8 * long.toNat := by
  simp only [packDecoded, append_toNat, ofBool_toNat, BitVec.toNat_ofNat]
  omega

/-- A payload length in a response word loses nothing. -/
theorem lengthWord_toNat (n : Arg) : (n.setWidth 32).toNat = n.toNat :=
  BitVec.toNat_setWidth_of_le (by decide)

theorem decodeDechdr_setWidth (o : BitVec 4) (blk : Block) :
    decodeDechdr (o.setWidth 16) blk = .ok (.dechdr o blk) := by
  have ho : (o.setWidth 16).toNat = o.toNat := BitVec.toNat_setWidth_of_le (by decide)
  have hlt := o.isLt
  have hzero : (o.setWidth 16).extractLsb' 4 12 = 0 := (field_eq_zero_iff _ 4 12).2 (by omega)
  have hoffset : (o.setWidth 16).extractLsb' 0 4 = o := by
    rw [← BitVec.toNat_inj, field_toNat]
    omega
  rw [decodeDechdr, if_pos hzero, hoffset]

/-- The word of `DECHDR` with an offset under the opcode (R95, R97). -/
theorem decode_dechdr_word (o : BitVec 4) (blk : Block) :
    decode (0x50000000#32 ||| o.setWidth 32) blk = .ok (.dechdr o blk) := by
  have hword : (o.setWidth 16).setWidth 32 = o.setWidth 32 :=
    BitVec.eq_of_toNat_eq (by simp only [BitVec.toNat_setWidth]; omega)
  rw [← hword]
  exact (decode_opcode_or_arg 0x5 (by decide) _ blk).trans (decodeDechdr_setWidth o blk)

/-- Settles O17: the tests of `decodeHeader` in their order, and the fields of what it finds. -/
theorem dechdrDecodesBothForms : Obligations.DechdrDecodesBothForms := by
  refine ⟨fun o b s => ⟨fun hother => ?_, fun _ hend => ?_, fun htype ho hshort => ?_,
    fun htype hlow ho hlong => ?_, fun htype ho hlong => ?_⟩, decode_dechdr_word, ?_⟩
  · exact dechdr_answers_of_malformed o b s (decodeHeader_otherType b _ hother)
  · exact dechdr_answers_of_malformed o b s (decodeHeader_noLengthByte b _ hend.ge)
  · refine ⟨_, dechdr_answers_of_decoded o b s _ (decodeHeader_short b _ htype ho hshort), rfl, ?_, ?_⟩
    · rw [lengthWord_toNat, BitVec.toNat_setWidth_of_le (by decide)]
    · exact packDecoded_toNat _ _ false (by omega)
  · exact dechdr_answers_of_malformed o b s (decodeHeader_longPastBlock b _ htype hlow ho hlong)
  · refine ⟨_, dechdr_answers_of_decoded o b s _ (decodeHeader_long b _ htype ho hlong), rfl, ?_, ?_⟩
    · rw [lengthWord_toNat, append_toNat]
      omega
    · exact packDecoded_toNat _ _ true (by omega)
  · exact refusesIllegal_of_illegalWord 0x5 _ fun cw hop harg => .inr (.inr (.inr (.inl ⟨hop, harg⟩)))

/-! ## ENCHDR (R123) -/

theorem enchdr_answers (n : Arg) (s : State) :
    Answers (.enchdr n) s s.unit ⟨0, packHeader (headerBytes n), packHeaderForm n⟩ := rfl

theorem isShortForm_iff (n : Arg) : isShortForm n = true ↔ n.toNat < 255 := decide_eq_true_iff

/-- Four bytes in a response word, the first most significant (R54, R99). -/
theorem packHeader_toNat (h0 h1 h2 h3 : Byte) :
    (packHeader [h0, h1, h2, h3]).toNat =
      2 ^ 24 * h0.toNat + 2 ^ 16 * h1.toNat + 2 ^ 8 * h2.toNat + h3.toNat := by
  simp only [packHeader, append_toNat, List.getD_cons_zero, List.getD_cons_succ]
  omega

theorem packHeader_short_toNat (n : Arg) (hn : n.toNat < 255) :
    (packHeader (headerBytes n)).toNat = 0x00000300 + n.toNat := by
  have hb := headerBytes_short n.toNat hn
  rw [BitVec.ofNat_toNat, BitVec.setWidth_eq] at hb
  rw [hb, packHeader_toNat]
  simp only [BitVec.ofNat_eq_ofNat, BitVec.toNat_ofNat]
  omega

theorem packHeader_long_toNat (n : Arg) (hn : 255 ≤ n.toNat) :
    (packHeader (headerBytes n)).toNat = 0x03FF0000 + n.toNat := by
  have hlt := n.isLt
  have hb := headerBytes_long n.toNat hn (by omega)
  rw [BitVec.ofNat_toNat, BitVec.setWidth_eq] at hb
  rw [hb, packHeader_toNat]
  simp only [BitVec.ofNat_eq_ofNat, BitVec.toNat_ofNat]
  omega

theorem packHeaderForm_short (n : Arg) (hn : n.toNat < 255) : packHeaderForm n = 4 := by
  rw [packHeaderForm, frameStart, (isShortForm_iff n).2 hn]
  rfl

theorem packHeaderForm_long (n : Arg) (hn : 255 ≤ n.toNat) : packHeaderForm n = 1 := by
  have hlong : isShortForm n = false := Bool.eq_false_iff.2 (mt (isShortForm_iff n).1 (by omega))
  rw [packHeaderForm, frameStart, hlong]
  rfl

/-- Settles O18: the four header bytes of each form as one word, and the opcode row of `ENCHDR`. -/
theorem enchdrEmitsTheHeader : Obligations.EnchdrEmitsTheHeader :=
  ⟨fun n s =>
    ⟨fun hn => ⟨_, enchdr_answers n s, rfl, packHeader_short_toNat n hn, packHeaderForm_short n hn⟩,
      fun hn => ⟨_, enchdr_answers n s, rfl, packHeader_long_toNat n hn, packHeaderForm_long n hn⟩⟩,
    decode_opcode_or_arg 0x6 (by decide), refusesIllegal_reservedBits 0x6⟩

/-! ## FTERM (R124) -/

theorem fterm_answers (b : Block) (s : State) (t : Option Nat) (h : scanTerminator (blockBytes b) 0 = t) :
    Answers (.fterm b) s s.unit ⟨0, BitVec.ofNat 32 (t.getD 0), packTerminator t⟩ := by
  rw [Answers, exec, execFterm, h]
  rfl

/-- The first terminator byte of a block is found. -/
theorem scanTerminator_block (b : Block) (t : Nat) (ht : t < 16) (hb : ∀ i, i < t → blockByte b i ≠ 0xFE)
    (he : blockByte b t = 0xFE) : scanTerminator (blockBytes b) 0 = some t := by
  have hb' : ∀ i, i < t → (blockBytes b).getD i 0 ≠ 0xFE := fun i hi => by
    rw [blockBytes_getD b i (by omega)]
    exact hb i hi
  rw [← blockBytes_getD b t ht] at he
  rw [scanTerminator_at _ 0 t (by rwa [blockBytes_length]) hb' he, Nat.zero_add]

theorem scanTerminator_cleanBlock (b : Block) (hb : ∀ i, i < 16 → blockByte b i ≠ 0xFE) :
    scanTerminator (blockBytes b) 0 = none :=
  scanTerminator_none _ 0 fun i hi => by
    rw [blockBytes_length] at hi
    rw [blockBytes_getD b i hi]
    exact hb i hi

/-- Never more is kept than the block holds. -/
theorem takeCount_le (t : Option Nat) : takeCount t ≤ 16 := by
  cases t with
  | none => exact le_rfl
  | some t =>
    rw [takeCount]
    split <;> omega

/-- `FOUND` and `TAKE` in the second response word (R99). -/
theorem packTerminator_toNat (t : Option Nat) :
    (packTerminator t).toNat = t.isSome.toNat + 2 ^ 8 * takeCount t := by
  have := takeCount_le t
  simp only [packTerminator, append_toNat, ofBool_toNat, BitVec.toNat_ofNat]
  omega

/-- Settles O19: the scan finds the first terminator byte or none, and `TAKE` follows from where it is. -/
theorem ftermFindsTheFirstTerminator : Obligations.FtermFindsTheFirstTerminator := by
  refine ⟨fun b s t ht hb he => ?_, fun b s hb => ?_, decode_opcode_or_arg 0x7 (by decide) 0, ?_⟩
  · refine ⟨_, fterm_answers b s _ (scanTerminator_block b t ht hb he), rfl, ?_, packTerminator_toNat _⟩
    rw [Option.getD_some, BitVec.toNat_ofNat]
    omega
  · exact fterm_answers b s _ (scanTerminator_cleanBlock b hb)
  · exact refusesIllegal_of_illegalWord 0x7 _ fun cw hop harg => .inr (.inr (.inl ⟨.inr (.inl hop), harg⟩))

end Sys2Proof.Machine
end

section
/-! SUPPORT. The buffer sizer (42_buffer_sizer.md R140): what rounding up to whole blocks gives, and the size of each
form as a response word. -/

namespace Sys2Proof.Machine

/-! ## Rounding up to blocks (R14) -/

theorem ceil16_eq (n : Nat) : ceil16 n = (n + 15) / 16 * 16 := rfl

theorem ceil16_mod (n : Nat) : ceil16 n % 16 = 0 := Nat.mul_mod_left _ _

theorem le_ceil16 (n : Nat) : n ≤ ceil16 n := by
  rw [ceil16_eq]
  omega

theorem ceil16_lt (n : Nat) : ceil16 n < n + 16 := by
  rw [ceil16_eq]
  omega

/-! ## The size of each form (R140) -/

theorem bufferSize_short (n : Nat) (hn : n < 255) : bufferSize n = ceil16 (n + 3) :=
  congrArg ceil16 (if_pos hn)

theorem bufferSize_long (n : Nat) (hn : 255 ≤ n) : bufferSize n = ceil16 (n + 5) :=
  congrArg ceil16 (if_neg (Nat.not_lt.2 hn))

theorem bufferSize_mod (n : Nat) : bufferSize n % 16 = 0 := ceil16_mod _

theorem bufferSize_lt (n : Nat) : bufferSize n < n + 21 := by
  rcases Nat.lt_or_ge n 255 with hn | hn
  · rw [bufferSize_short n hn]
    exact (ceil16_lt _).trans (by omega)
  · rw [bufferSize_long n hn]
    exact ceil16_lt _

/-! ## BUFSZ (R140) -/

theorem bufsz_answers (n : Arg) (s : State) :
    Answers (.bufsz n) s s.unit ⟨0, BitVec.ofNat 32 (bufferSize n.toNat), 0⟩ := rfl

/-- The size in a response word loses nothing. -/
theorem bufferSizeWord_toNat (n : Arg) : (BitVec.ofNat 32 (bufferSize n.toNat)).toNat = bufferSize n.toNat := by
  have hsize := bufferSize_lt n.toNat
  have hlt := n.isLt
  exact (BitVec.toNat_ofNat _ _).trans (Nat.mod_eq_of_lt (by omega))

/-- Settles O24: the size is a multiple of 16 less than a block above the length with the addend of its form, and
the opcode row of `BUFSZ`. -/
theorem bufszRoundsUpToBlocks : Obligations.BufszRoundsUpToBlocks := by
  refine ⟨fun n s => ⟨_, bufsz_answers n s, rfl, rfl, ?_⟩,
    decode_opcode_or_arg 0x8 (by decide), refusesIllegal_reservedBits 0x8⟩
  rw [bufferSizeWord_toNat]
  refine ⟨bufferSize_mod _, fun hshort => ?_, fun hlong => ?_⟩
  · rw [bufferSize_short _ hshort]
    exact ⟨le_ceil16 _, ceil16_lt _⟩
  · rw [bufferSize_long _ hlong]
    exact ⟨le_ceil16 _, ceil16_lt _⟩

end Sys2Proof.Machine
end

section
/-! SUPPORT. The block-skip iterator (43_block_iterator.md R150 to R161): which commands are out of order and what
they answer, each command in order as one equation, and the words of the family. -/

namespace Sys2Proof.Machine

/-! ## Inactive phases (R23) -/

theorem Phase.active_eq_false_iff (p : Phase) : p.active = false ↔ p = .done ∨ p = .failed := by
  cases p <;> decide

theorem Phase.active_of_not_inactive {p : Phase} (h : ¬(p = .done ∨ p = .failed)) : p.active = true :=
  Bool.of_not_eq_false (mt p.active_eq_false_iff.1 h)

/-! ## Out of order (R161) -/

/-- A command that is out of order is refused with `IllegalSequence` (R161). -/
theorem exec_outOfOrder (i : Instr) (s : State) (hi : i.wellFormed = true) (h : outOfOrder s.unit i) :
    exec i s = .next (s.raise .illegalSequence) := by
  cases i with
  | wnext =>
    have hp : (!s.unit.phase.active) = true := by rw [s.unit.phase.active_eq_false_iff.2 h, Bool.not_false]
    exact if_pos hp
  | wstop =>
    exact if_neg (Bool.eq_false_iff.1 (s.unit.phase.active_eq_false_iff.2 h))
  | wfail c =>
    have hc : (!legalCode c) ≠ true := by rw [show legalCode c = true from hi]; decide
    exact (if_neg hc).trans (if_neg (Bool.eq_false_iff.1 (s.unit.phase.active_eq_false_iff.2 h)))
  | wauth ok => exact if_neg h
  | wack => exact if_neg h
  | _ => exact h.elim

/-- The status of R211 with the number 9 is `IllegalSequence`. -/
theorem Status.code_eq_nine_iff (e : Status) : e.code = 9 ↔ e = .illegalSequence := by
  cases e <;> decide

/-- The outcome is one response of a named status other than `IllegalSequence`, over some record of the unit. -/
def RespondsInOrder (s : State) (o : Outcome) : Prop :=
  ∃ (u : UnitState) (e : Status) (v0 v1 : BitVec 32),
    o = .next ((s.withUnit u).respond e.code v0 v1) ∧ e ≠ .illegalSequence

theorem RespondsInOrder.of_succeed (s : State) (u : UnitState) (v0 v1 : BitVec 32) :
    RespondsInOrder s (.next ((s.withUnit u).succeed v0 v1)) :=
  ⟨u, .ok, v0, v1, rfl, by decide⟩

theorem execFfs_respondsInOrder (blk : Block) (s : State) : RespondsInOrder s (execFfs blk s) := by
  unfold execFfs
  split
  next => exact .of_succeed s s.unit _ _
  next e h =>
    refine ⟨s.unit, e, 0, 0, rfl, ?_⟩
    rcases scanFrameStart_error _ _ _ h with rfl | rfl <;> decide

theorem execDechdr_respondsInOrder (o : BitVec 4) (blk : Block) (s : State) :
    RespondsInOrder s (execDechdr o blk s) := by
  unfold execDechdr
  split
  next => exact .of_succeed s s.unit _ _
  next e h =>
    obtain rfl := decodeHeader_error _ _ _ h
    exact ⟨s.unit, _, 0, 0, rfl, by decide⟩

theorem yieldNext_respondsInOrder (u : UnitState) (v0 : BitVec 32) (s : State) :
    RespondsInOrder s (yieldNext u v0 s) := .of_succeed s u _ _

theorem classifyNext_respondsInOrder (s : State) : RespondsInOrder s (classifyNext s) := by
  rcases classifyNext_cases s with ⟨-, h⟩ | ⟨-, -, h⟩ | ⟨-, -, h⟩ <;> rw [h] <;>
    exact yieldNext_respondsInOrder _ _ s

/-! ## WNEXT (R152) -/

/-- In an active phase `WNEXT` begins with the budget test. -/
theorem wnext_active (s : State) (hp : s.unit.phase.active = true) : exec .wnext s =
    if s.unit.mode ≠ modeFormat ∧ s.unit.limit ≤ s.unit.bcnt then
      yieldNext s.unit.endWalk (packYield s.unit.bidx false false true false) s
    else if s.params.lastBlock < s.unit.bidx then
      if s.unit.mode = modeFormat then
        yieldNext s.unit.endWalk (packYield s.unit.bidx false false true true) s
      else if s.unit.mode = modeRead then failNext .missingTerminator s
      else if s.unit.mode = modeWrite then failNext .ioFailure s
      else classifyNext (s.withUnit { s.unit with pend := false })
    else classifyNext s := by
  have hact : (!s.unit.phase.active) ≠ true := by rw [hp]; decide
  exact if_neg hact

/-- `WNEXT` in an active phase yields, or fails the walk with one of the two kinds of the end of the medium. -/
theorem wnext_respondsInOrder (s : State) (hp : s.unit.phase.active = true) :
    RespondsInOrder s (exec .wnext s) := by
  rw [wnext_active s hp]
  split
  next => exact yieldNext_respondsInOrder _ _ s
  split
  next =>
    split
    next => exact yieldNext_respondsInOrder _ _ s
    split
    next => exact ⟨_, .missingTerminator, _, _, rfl, by decide⟩
    split
    next => exact ⟨_, .ioFailure, _, _, rfl, by decide⟩
    next => exact classifyNext_respondsInOrder (s.withUnit _)
  next => exact classifyNext_respondsInOrder s

/-- The walk has budget left: a format has no budget (R25, R28). -/
def UnitState.WithinBudget (u : UnitState) : Prop := u.mode = 2 ∨ u.bcnt.toNat < u.limit.toNat

theorem UnitState.WithinBudget.not_reached {u : UnitState} (h : u.WithinBudget) :
    ¬(u.mode ≠ modeFormat ∧ u.limit ≤ u.bcnt) := by
  rintro ⟨hm, hle⟩
  rcases h with hf | hlt
  · exact hm hf
  · exact absurd (BitVec.le_def.1 hle) (Nat.not_le.2 hlt)

theorem wnext_budgetReached (s : State) (hp : s.unit.phase.active = true) (hm : s.unit.mode ≠ 2)
    (hb : s.unit.limit.toNat ≤ s.unit.bcnt.toNat) :
    exec .wnext s = yieldNext s.unit.endWalk (packYield s.unit.bidx false false true false) s := by
  rw [wnext_active s hp, if_pos ⟨hm, BitVec.le_def.2 hb⟩]

/-- Behind the last block the mode decides how the walk ends; mode 3 goes on to step (3) (log 11). -/
theorem wnext_behindLastBlock (s : State) (hp : s.unit.phase.active = true) (hb : s.unit.WithinBudget)
    (hl : s.params.lastBlock.toNat < s.unit.bidx.toNat) : exec .wnext s =
    if s.unit.mode = modeFormat then
      yieldNext s.unit.endWalk (packYield s.unit.bidx false false true true) s
    else if s.unit.mode = modeRead then failNext .missingTerminator s
    else if s.unit.mode = modeWrite then failNext .ioFailure s
    else classifyNext (s.withUnit { s.unit with pend := false }) := by
  rw [wnext_active s hp, if_neg hb.not_reached, if_pos (BitVec.lt_def.2 hl)]

/-- Within the budget and the medium `WNEXT` classifies the block under the cursor. -/
theorem wnext_classifies (s : State) (hp : s.unit.phase.active = true) (hb : s.unit.WithinBudget)
    (hl : s.unit.bidx.toNat ≤ s.params.lastBlock.toNat) : exec .wnext s = classifyNext s := by
  have hin : ¬s.params.lastBlock < s.unit.bidx := fun h => absurd (BitVec.lt_def.1 h) (Nat.not_lt.2 hl)
  rw [wnext_active s hp, if_neg hb.not_reached, if_neg hin]

theorem classifyNext_authenticating (s : State) (hp : s.unit.phase = .authenticating) : classifyNext s =
    yieldNext { s.unit with pend := true } (packYield s.unit.bidx true false false false) s := if_pos hp

theorem classifyNext_trailer (s : State) (hp : s.unit.phase = .transferring) (ht : s.unit.bidx.toNat % 4 = 3) :
    classifyNext s = yieldNext { s.unit with bidx := s.unit.bidx + 1, pend := false, phase := .authenticating }
      (packYield s.unit.bidx false true false false) s :=
  (if_neg (by rw [hp]; decide)).trans (if_pos ((isTrailer_cursor _).2 ht))

theorem classifyNext_data (s : State) (hp : s.unit.phase = .transferring) (ht : s.unit.bidx.toNat % 4 ≠ 3) :
    classifyNext s = yieldNext { s.unit with pend := true } (packYield s.unit.bidx false false false false) s :=
  (if_neg (by rw [hp]; decide)).trans (if_neg (mt (isTrailer_cursor _).1 ht))

/-- What a yield answers: the yield word and the counter as it was. -/
theorem wnext_answers_of_yield {s : State} {u : UnitState} {a sk d e : Bool}
    (h : exec .wnext s = yieldNext u (packYield s.unit.bidx a sk d e) s) :
    ∃ r, Answers .wnext s u r ∧ r.st = 0 ∧
      r.v0.toNat = yieldWord s.unit.bidx.toNat a.toNat sk.toNat d.toNat e.toNat ∧
      r.v1.toNat = s.unit.bcnt.toNat :=
  ⟨_, h, rfl, packYield_toNat _ a sk d e, counter_toNat _⟩

/-- Settles O27: the tests of `WNEXT` in their order, one equation per case, and its opcode row. -/
theorem wnextYieldsTheNextAction : Obligations.WnextYieldsTheNextAction := by
  refine ⟨fun s hp => exec_outOfOrder .wnext s rfl hp, fun s hp hm hb => ?_, fun s hp hb hl => ?_,
    fun s hb hl => ?_, decode_opcode_or_arg 0xA (by decide) 0, ?_⟩
  · exact wnext_answers_of_yield (wnext_budgetReached s hp hm hb)
  · have hend := wnext_behindLastBlock s hp hb hl
    refine ⟨fun hm => ?_, fun hm => ?_, fun hm => ?_⟩
    · exact wnext_answers_of_yield (hend.trans (if_pos hm))
    · rw [hm] at hend
      exact hend
    · rw [hm] at hend
      exact hend
  · refine ⟨fun hp => ?_, fun hp ht => ?_, fun hp ht => ?_⟩
    all_goals have hcl := wnext_classifies s (by rw [hp]; rfl) hb hl
    · exact wnext_answers_of_yield (hcl.trans (classifyNext_authenticating s hp))
    · exact wnext_answers_of_yield (hcl.trans (classifyNext_trailer s hp ht))
    · exact wnext_answers_of_yield (hcl.trans (classifyNext_data s hp ht))
  · exact refusesIllegal_of_illegalWord 0xA _ fun cw hop harg =>
      .inr (.inr (.inl ⟨.inr (.inr (.inl hop)), harg⟩))

/-! ## WINIT (R151) -/

theorem winit_answers (m : BitVec 2) (k : BitVec 13) (s : State) (hm : m ≠ 3) :
    Answers (.winit m k) s (.startWalk m k) ⟨0, 0, 0⟩ :=
  if_pos (bne_iff_ne.2 hm)

/-- The operands of `WINIT` side by side in `ARG`, bit 13 zero (R97). -/
theorem winitArg_toNat (m : BitVec 2) (k : BitVec 13) :
    (m ++ 0#1 ++ k).toNat = 2 ^ 14 * m.toNat + k.toNat := by
  simp only [append_toNat, BitVec.toNat_ofNat]
  omega

theorem decodeWinit_arg (m : BitVec 2) (k : BitVec 13) : decodeWinit (m ++ 0#1 ++ k) = .ok (.winit m k) := by
  have harg := winitArg_toNat m k
  have hm := m.isLt
  have hk := k.isLt
  have hzero : (m ++ 0#1 ++ k).extractLsb' 13 1 = 0 := (field_eq_zero_iff _ 13 1).2 (by omega)
  have hmode : (m ++ 0#1 ++ k).extractLsb' 14 2 = m := by
    rw [← BitVec.toNat_inj, field_toNat]
    omega
  have hbudget : (m ++ 0#1 ++ k).extractLsb' 0 13 = k := by
    rw [← BitVec.toNat_inj, field_toNat]
    omega
  rw [decodeWinit, if_pos hzero, hmode, hbudget]

/-- The mode shifted to its place with the budget under it is `ARG` (R97, R151). -/
theorem winitWord_eq (m : BitVec 2) (k : BitVec 13) :
    m.setWidth 32 <<< 14 ||| k.setWidth 32 = (m ++ 0#1 ++ k).setWidth 32 := by
  have hm := m.isLt
  have hk : k.toNat < 2 ^ 14 := lt_trans k.isLt (by decide)
  have hmode : (m.setWidth 32 <<< 14).toNat = 2 ^ 14 * m.toNat := by
    rw [BitVec.toNat_shiftLeft, BitVec.toNat_setWidth_of_le (by decide), Nat.shiftLeft_eq]
    omega
  rw [← BitVec.toNat_inj, BitVec.toNat_or, hmode, BitVec.toNat_setWidth_of_le (by decide),
    BitVec.toNat_setWidth_of_le (by decide), winitArg_toNat, ← Nat.two_pow_add_eq_or_of_lt hk]

/-- The word of `WINIT` (R95, R151). -/
theorem decode_winit_word (m : BitVec 2) (k : BitVec 13) (blk : Block) :
    decode (0x90000000#32 ||| m.setWidth 32 <<< 14 ||| k.setWidth 32) blk = .ok (.winit m k) := by
  rw [BitVec.or_assoc, winitWord_eq]
  exact (decode_opcode_or_arg 0x9 (by decide) _ blk).trans (decodeWinit_arg m k)

/-- Settles O26: the fields of a walk that starts, mode 3 refused by the command, and the opcode row of `WINIT`. -/
theorem winitStartsAWalk : Obligations.WinitStartsAWalk := by
  refine ⟨fun m k s hm => ?_, fun k s => exec_illFormed (.winit 3 k) s rfl, decode_winit_word, ?_⟩
  · exact ⟨.startWalk m k, winit_answers m k s hm, rfl, rfl, rfl, rfl, rfl,
      UnitState.startWalk_limit m k, rfl, rfl⟩
  · exact refusesIllegal_of_illegalWord 0x9 _ fun cw hop harg =>
      .inr (.inr (.inr (.inr (.inl ⟨hop, harg⟩))))

/-! ## WAUTH (R153) -/

theorem wauth_true_answers (s : State) (h : s.unit.phase = .authenticating ∧ s.unit.pend = true) :
    Answers (.wauth true) s { s.unit with phase := .transferring, pend := false } ⟨0, 0, 0⟩ := if_pos h

theorem wauth_false_answers (s : State) (h : s.unit.phase = .authenticating ∧ s.unit.pend = true) :
    Answers (.wauth false) s (s.unit.failWalk 1) ⟨0, 0, 0⟩ := if_pos h

/-- Settles O28: the two outcomes of a pending authentication, the refusal, and the opcode row of `WAUTH`. -/
theorem wauthReportsTheOutcome : Obligations.WauthReportsTheOutcome := by
  refine ⟨fun s hp hpend => ⟨wauth_true_answers s ⟨hp, hpend⟩, wauth_false_answers s ⟨hp, hpend⟩⟩,
    fun s ok h => exec_outOfOrder (.wauth ok) s rfl h, fun blk => ⟨?_, ?_⟩, ?_⟩
  · exact decode_opcode_or_arg 0xB (by decide) 0 blk
  · exact decode_opcode_or_arg 0xB (by decide) 1 blk
  · exact refusesIllegal_of_illegalWord 0xB _ fun cw hop harg =>
      .inr (.inr (.inr (.inr (.inr (.inl ⟨hop, harg⟩)))))

/-! ## WACK (R154) -/

theorem wack_answers (s : State) (h : s.unit.phase = .transferring ∧ s.unit.pend = true) :
    Answers .wack s { s.unit with bcnt := s.unit.bcnt + 16, bidx := s.unit.bidx + 1, pend := false }
      ⟨0, 0, 0⟩ := if_pos h

/-- Settles O29: the acknowledgement of a pending transfer, the refusal, and the opcode row of `WACK`. -/
theorem wackAdvances : Obligations.WackAdvances := by
  refine ⟨fun s hp hpend => wack_answers s ⟨hp, hpend⟩, fun s h => exec_outOfOrder .wack s rfl h,
    decode_opcode_or_arg 0xC (by decide) 0, ?_⟩
  exact refusesIllegal_of_illegalWord 0xC _ fun cw hop harg =>
    .inr (.inr (.inl ⟨.inr (.inr (.inr (.inl hop))), harg⟩))

/-! ## WSTOP (R155) -/

theorem wstop_answers (s : State) (hp : s.unit.phase.active = true) :
    Answers .wstop s s.unit.endWalk ⟨0, 0, 0⟩ := if_pos hp

/-- Settles O30: the end of an active walk, the refusal, and the opcode row of `WSTOP`. -/
theorem wstopEndsTheWalk : Obligations.WstopEndsTheWalk := by
  refine ⟨wstop_answers, fun s hp => exec_outOfOrder .wstop s rfl hp,
    decode_opcode_or_arg 0xD (by decide) 0, ?_⟩
  exact refusesIllegal_of_illegalWord 0xD _ fun cw hop harg =>
    .inr (.inr (.inl ⟨.inr (.inr (.inr (.inr (.inl hop)))), harg⟩))

/-! ## WFAIL (R156) -/

theorem legalCode_of_ne {c : BitVec 3} (h0 : c ≠ 0) (h7 : c ≠ 7) : legalCode c = true := by
  rw [legalCode, bne_iff_ne.2 h0, bne_iff_ne.2 h7, Bool.and_self]

theorem wfail_answers (c : BitVec 3) (s : State) (hc : legalCode c = true) (hp : s.unit.phase.active = true) :
    Answers (.wfail c) s (s.unit.failWalk c) ⟨0, 0, 0⟩ := by
  have hlegal : (!legalCode c) ≠ true := by rw [hc]; decide
  exact (if_neg hlegal).trans (if_pos hp)

theorem decodeWfail_setWidth (c : BitVec 3) : decodeWfail (c.setWidth 16) = .ok (.wfail c) := by
  have hc : (c.setWidth 16).toNat = c.toNat := BitVec.toNat_setWidth_of_le (by decide)
  have hlt := c.isLt
  have hzero : (c.setWidth 16).extractLsb' 3 13 = 0 := (field_eq_zero_iff _ 3 13).2 (by omega)
  have hcode : (c.setWidth 16).extractLsb' 0 3 = c := by
    rw [← BitVec.toNat_inj, field_toNat]
    omega
  rw [decodeWfail, if_pos hzero, hcode]

/-- The word of `WFAIL` with a code under the opcode (R95, R156). -/
theorem decode_wfail_word (c : BitVec 3) (blk : Block) :
    decode (0xE0000000#32 ||| c.setWidth 32) blk = .ok (.wfail c) := by
  have hword : (c.setWidth 16).setWidth 32 = c.setWidth 32 :=
    BitVec.eq_of_toNat_eq (by simp only [BitVec.toNat_setWidth]; omega)
  rw [← hword]
  exact (decode_opcode_or_arg 0xE (by decide) _ blk).trans (decodeWfail_setWidth c)

/-- Settles O31: the failure of an active walk, the two refusals with the code tested first, and the opcode row of
`WFAIL`. -/
theorem wfailLatchesTheKind : Obligations.WfailLatchesTheKind := by
  refine ⟨fun c s h0 h7 hp => wfail_answers c s (legalCode_of_ne h0 h7) hp,
    fun c s h0 h7 hp => exec_outOfOrder (.wfail c) s (legalCode_of_ne h0 h7) hp, fun c s hc => ?_,
    decode_wfail_word, ?_⟩
  · rcases hc with rfl | rfl
    · exact exec_illFormed (.wfail 0) s rfl
    · exact exec_illFormed (.wfail 7) s rfl
  · exact refusesIllegal_of_illegalWord 0xE _ fun cw hop harg =>
      .inr (.inr (.inr (.inr (.inr (.inr ⟨hop, by omega⟩)))))

/-! ## WSTAT (R32, R157) -/

theorem wstat_answers (s : State) :
    Answers .wstat s s.unit ⟨0, packStatus s.unit, s.unit.bcnt.setWidth 32⟩ := rfl

/-- Settles O32: the fields of the status word as a number, and the opcode row of `WSTAT`. -/
theorem wstatReadsTheState : Obligations.WstatReadsTheState := by
  refine ⟨fun s => ⟨_, wstat_answers s, rfl, packStatus_toNat s.unit, counter_toNat _⟩,
    decode_opcode_or_arg 0xF (by decide) 0, ?_⟩
  exact refusesIllegal_of_illegalWord 0xF _ fun cw hop harg =>
    .inr (.inr (.inl ⟨.inr (.inr (.inr (.inr (.inr hop)))), harg⟩))

/-! ## Status 9 (R161) -/

/-- A command within R97 that is in order completes with a status other than `IllegalSequence`. -/
theorem exec_inOrder (i : Instr) (s : State) (hi : i.wellFormed = true) (h : ¬outOfOrder s.unit i) :
    RespondsInOrder s (exec i s) := by
  cases i with
  | locate n => exact .of_succeed s s.unit _ _
  | istrl n => exact .of_succeed s s.unit _ _
  | isstart n => exact .of_succeed s s.unit _ _
  | ffs blk => exact execFfs_respondsInOrder blk s
  | dechdr o blk => exact execDechdr_respondsInOrder o blk s
  | enchdr n => exact .of_succeed s s.unit _ _
  | fterm blk => exact .of_succeed s s.unit _ _
  | bufsz n => exact .of_succeed s s.unit _ _
  | winit m k => exact ⟨_, .ok, 0, 0, winit_answers m k s (bne_iff_ne.1 hi), by decide⟩
  | wnext => exact wnext_respondsInOrder s (Phase.active_of_not_inactive h)
  | wauth ok =>
    have hpending := not_not.1 h
    cases ok with
    | true => exact ⟨_, .ok, 0, 0, wauth_true_answers s hpending, by decide⟩
    | false => exact ⟨_, .ok, 0, 0, wauth_false_answers s hpending, by decide⟩
  | wack => exact ⟨_, .ok, 0, 0, wack_answers s (not_not.1 h), by decide⟩
  | wstop => exact ⟨_, .ok, 0, 0, wstop_answers s (Phase.active_of_not_inactive h), by decide⟩
  | wfail c => exact ⟨_, .ok, 0, 0, wfail_answers c s hi (Phase.active_of_not_inactive h), by decide⟩
  | wstat => exact .of_succeed s s.unit _ _

/-- Settles O33: a command out of order is refused, and one in order answers another status. -/
theorem illegalSequenceExactly : Obligations.IllegalSequenceExactly := by
  intro i s t r hi hexec hr
  by_cases h : outOfOrder s.unit i
  · rw [exec_outOfOrder i s hi h] at hexec
    cases hexec
    cases hr
    exact ⟨iff_of_true rfl h, fun _ => rfl⟩
  · obtain ⟨u, e, v0, v1, hout, he⟩ := exec_inOrder i s hi h
    rw [hout] at hexec
    cases hexec
    cases hr
    exact ⟨iff_of_false (mt (Status.code_eq_nine_iff e).1 he) h, fun hout => absurd hout h⟩

end Sys2Proof.Machine
end

section
/-! SUPPORT. How the host's write operations begin (44_walker_sequences.md R185, R195, R197): the entry an idle machine
takes up, the bound on the payload, and the two answers of the record codec. -/

namespace Sys2Proof.Machine

/-- An idle machine with no reset asserted takes up the first entry of the host's list (R242). -/
theorem step_takesHostAct (s : State) (a : HostAct) (rest : List HostAct) (hrst : s.rst = false)
    (hseq : s.seq = .idle) (hhost : s.host = a :: rest) : step s = hostAct a rest s := by
  simp only [step, hrst, hseq, hostStep, hhost, Bool.false_eq_true, if_false, if_true]

/-- A result reported between two operations changes the list of results only. -/
theorem State.finish_of_idle (s : State) (r : OpResult) (h : s.seq = .idle) :
    s.finish r = { s with results := r :: s.results } := by
  rw [State.finish, ← h]

/-! ## `writeFrame` (R185; log 14) -/

/-- A payload whose length fits into `ARG` leads on to `ENCHDR`. -/
theorem beginWrite_encodes (h : CardHandle) (p : List Byte) (s : State) (hp : p.length ≤ 65535) :
    beginWrite h p s = .next (s.goto (.encoding h p)) :=
  if_neg (Nat.not_lt.2 hp)

/-- A payload with no header encoding is refused (U13). -/
theorem beginWrite_refuses (h : CardHandle) (p : List Byte) (s : State) (hp : 65535 < p.length) :
    beginWrite h p s = .refused .payloadTooLong :=
  if_pos hp

/-! ## `writeUri` (R195, R197; log 15) -/

/-- What the codec accepts is written as `writeFrame` writes it. -/
theorem beginWriteUri_accepted (h : CardHandle) (text : String) (p : List Byte) (s : State)
    (hcodec : Config.encodeUriRecord text = some p) : beginWriteUri h text s = beginWrite h p s := by
  rw [beginWriteUri, hcodec]

/-- What the codec rejects ends the operation with `CodecFailure`, kind 6 (R211). -/
theorem beginWriteUri_rejected (h : CardHandle) (text : String) (s : State)
    (hcodec : Config.encodeUriRecord text = none) :
    beginWriteUri h text s = .next (s.finish (.failed 6 none)) := by
  rw [beginWriteUri, hcodec]
  rfl

/-- Settles O53: the codec's two answers, and of the bytes it gives those that have a header encoding and those that
have none. -/
theorem writeUriGoesThroughTheCodec : Obligations.WriteUriGoesThroughTheCodec := by
  intro s h text rest hrst hseq hhost
  have hstep : step s = beginWriteUri h text (s.served rest) :=
    step_takesHostAct s (.writeUri h text) rest hrst hseq hhost
  cases hcodec : Config.encodeUriRecord text with
  | none =>
    show step s = _
    rw [hstep, beginWriteUri_rejected h text _ hcodec, State.finish_of_idle (s.served rest) _ hseq]
    rfl
  | some p =>
    have hwrite : step s = beginWrite h p (s.served rest) :=
      hstep.trans (beginWriteUri_accepted h text p _ hcodec)
    show if p.length ≤ 65535 then _ else _
    split
    case isTrue hfits => exact hwrite.trans (beginWrite_encodes h p _ hfits)
    case isFalse hlong => exact hwrite.trans (beginWrite_refuses h p _ (Nat.lt_of_not_le hlong))

end Sys2Proof.Machine
end

section
/-! SUPPORT. The two directions of the encoding (30_encoding.md R93, R95 to R97): every command is read back from its
word, and every word that decodes is the word of what it decodes to; and the assembler lines (R102). -/

namespace Sys2Proof.Machine

open Sys2Proof.Laws

/-! ## From a command to its word and back -/

theorem opcode_ne_zero (i : Instr) : i.opcode ≠ 0 := by
  cases i <;> exact ne_of_beq_false rfl

/-- The word of a command is decoded by the row of its opcode. -/
theorem decode_word (i : Instr) (blk : Block) : decode i.word blk = decodeOp i.opcode i.arg blk := by
  obtain ⟨hop, hne, hz, harg⟩ := ReservedZero.of_opcode i (opcode_ne_zero i)
  rw [decode, hop, hz, harg, if_neg hne, if_pos rfl]

theorem noArg_zero (i : Instr) : noArg 0 i = .ok i := rfl

/-- An offset above zero bits is the offset widened. -/
theorem zero_append_eq_setWidth {m n : Nat} (v : BitVec n) : 0#m ++ v = v.setWidth (m + n) := by
  rw [← BitVec.toNat_inj, append_toNat, BitVec.toNat_setWidth_of_le (by omega), BitVec.toNat_ofNat, Nat.zero_mod,
    Nat.zero_mul, Nat.zero_add]

theorem decodeDechdr_arg (o : BitVec 4) (blk : Block) : decodeDechdr (0#12 ++ o) blk = .ok (.dechdr o blk) := by
  rw [zero_append_eq_setWidth]
  exact decodeDechdr_setWidth o blk

theorem decodeWauth_arg (ok : Bool) : decodeWauth (0#15 ++ BitVec.ofBool ok) = .ok (.wauth ok) := by
  cases ok <;> rfl

theorem decodeWfail_arg (c : BitVec 3) : decodeWfail (0#13 ++ c) = .ok (.wfail c) := by
  rw [zero_append_eq_setWidth]
  exact decodeWfail_setWidth c

/-- The row of an opcode reads the operand back; the block matters only where it is meaningful (R93, R97). -/
theorem decodeOp_arg (i : Instr) (blk : Block) (hblk : i.usesBlk = true → i.blkOperand = blk) :
    decodeOp i.opcode i.arg blk = .ok i := by
  cases i with
  | locate n => rfl
  | istrl n => rfl
  | isstart n => rfl
  | ffs b => exact (hblk rfl : b = blk) ▸ noArg_zero _
  | dechdr o b => exact (hblk rfl : b = blk) ▸ decodeDechdr_arg o b
  | enchdr n => rfl
  | fterm b => exact (hblk rfl : b = blk) ▸ noArg_zero _
  | bufsz n => rfl
  | winit m k => exact decodeWinit_arg m k
  | wnext => exact noArg_zero _
  | wauth ok => exact decodeWauth_arg ok
  | wack => exact noArg_zero _
  | wstop => exact noArg_zero _
  | wfail c => exact decodeWfail_arg c
  | wstat => exact noArg_zero _

/-- The word of a command decodes to it, with any block where `BLK` is ignored (R93). -/
theorem decode_word_eq_ok (i : Instr) (blk : Block) (hblk : i.usesBlk = true → i.blkOperand = blk) :
    decode i.word blk = .ok i := by
  rw [decode_word, decodeOp_arg i blk hblk]

/-- Settles O1: the fields of the word, then the row of the opcode. -/
theorem decodeOfEncode : Obligations.DecodeOfEncode := fun i => decode_word_eq_ok i i.blkOperand fun _ => rfl

/-- Settles O3: each word is that of its command, and `BLK` is meaningful for `DECHDR` only. -/
theorem specWordsDecode : Obligations.SpecWordsDecode := by
  intro blk
  have hdechdr : (Instr.dechdr 2 blk).word = 0x50000002 := show 0x5#4 ++ 0#12 ++ (0#12 ++ 2#4) = _ by decide
  exact ⟨decode_word_eq_ok (.locate 4) blk nofun, hdechdr ▸ decode_word_eq_ok (.dechdr 2 blk) blk fun _ => rfl,
    decode_word_eq_ok (.bufsz 300) blk nofun, decode_word_eq_ok (.winit 1 5) blk nofun,
    decode_word_eq_ok (.wauth true) blk nofun, decode_word_eq_ok (.wfail 2) blk nofun⟩

/-! ## From a word to a command and back -/

/-- The command has this opcode and operand, and this block where it is meaningful. -/
structure Encodes (i : Instr) (op : BitVec 4) (arg : Arg) (blk : Block) : Prop where
  opcode : i.opcode = op
  arg : i.arg = arg
  block : i.usesBlk = true → i.blkOperand = blk

theorem noArg_ok {arg : Arg} {i j : Instr} (h : noArg arg j = .ok i) : j = i ∧ arg = 0 := by
  unfold noArg at h
  split at h
  · next hz => cases h; exact ⟨rfl, hz⟩
  · cases h

/-- `ARG[15:4]` zero: nothing of the operand is lost (R97). -/
theorem decodeDechdr_ok {arg : Arg} {blk : Block} {i : Instr} (h : decodeDechdr arg blk = .ok i) :
    ∃ o, i = .dechdr o blk ∧ 0#12 ++ o = arg := by
  unfold decodeDechdr at h
  split at h
  · next hz =>
    cases h
    refine ⟨_, rfl, BitVec.eq_of_toNat_eq ?_⟩
    have hlt := arg.isLt
    rw [field_eq_zero_iff] at hz
    rw [append_toNat, field_toNat, BitVec.toNat_ofNat]
    omega
  · cases h

/-- `ARG[13]` zero: mode and budget are the whole operand (R97). -/
theorem decodeWinit_ok {arg : Arg} {i : Instr} (h : decodeWinit arg = .ok i) :
    ∃ m k, i = .winit m k ∧ m ++ 0#1 ++ k = arg := by
  unfold decodeWinit at h
  split at h
  · next hz =>
    cases h
    refine ⟨_, _, rfl, BitVec.eq_of_toNat_eq ?_⟩
    have hlt := arg.isLt
    rw [field_eq_zero_iff] at hz
    rw [winitArg_toNat, field_toNat, field_toNat]
    omega
  · cases h

theorem decodeWauth_ok {arg : Arg} {i : Instr} (h : decodeWauth arg = .ok i) :
    ∃ ok, i = .wauth ok ∧ 0#15 ++ BitVec.ofBool ok = arg := by
  unfold decodeWauth at h
  split at h
  · next hz =>
    cases h
    refine ⟨_, rfl, BitVec.eq_of_toNat_eq ?_⟩
    have hlt := arg.isLt
    rw [field_eq_zero_iff] at hz
    rw [append_toNat, ofBool_toNat, bit_toNat, BitVec.toNat_ofNat]
    omega
  · cases h

theorem decodeWfail_ok {arg : Arg} {i : Instr} (h : decodeWfail arg = .ok i) :
    ∃ c, i = .wfail c ∧ 0#13 ++ c = arg := by
  unfold decodeWfail at h
  split at h
  · next hz =>
    cases h
    refine ⟨_, rfl, BitVec.eq_of_toNat_eq ?_⟩
    have hlt := arg.isLt
    rw [field_eq_zero_iff] at hz
    rw [append_toNat, field_toNat, BitVec.toNat_ofNat]
    omega
  · cases h

/-- Row by row of the opcode table: no bit of the operand is dropped (R96, R97). -/
theorem decodeOp_encodes (op : BitVec 4) (arg : Arg) (blk : Block) (i : Instr)
    (h : decodeOp op arg blk = .ok i) : Encodes i op arg blk := by
  have hopcode (n : Nat) (hn : op.toNat = n) : BitVec.ofNat 4 n = op := by
    rw [← hn, BitVec.ofNat_toNat, BitVec.setWidth_eq]
  unfold decodeOp at h
  split at h
  case h_1 hop | h_2 hop | h_3 hop | h_6 hop | h_8 hop =>
    cases h
    exact ⟨hopcode _ hop, rfl, nofun⟩
  case h_4 hop | h_7 hop =>
    obtain ⟨rfl, rfl⟩ := noArg_ok h
    exact ⟨hopcode _ hop, rfl, fun _ => rfl⟩
  case h_10 hop | h_12 hop | h_13 hop | h_15 hop =>
    obtain ⟨rfl, rfl⟩ := noArg_ok h
    exact ⟨hopcode _ hop, rfl, nofun⟩
  case h_5 hop =>
    obtain ⟨o, rfl, rfl⟩ := decodeDechdr_ok h
    exact ⟨hopcode _ hop, rfl, fun _ => rfl⟩
  case h_9 hop =>
    obtain ⟨m, k, rfl, rfl⟩ := decodeWinit_ok h
    exact ⟨hopcode _ hop, rfl, nofun⟩
  case h_11 hop =>
    obtain ⟨ok, rfl, rfl⟩ := decodeWauth_ok h
    exact ⟨hopcode _ hop, rfl, nofun⟩
  case h_14 hop =>
    obtain ⟨c, rfl, rfl⟩ := decodeWfail_ok h
    exact ⟨hopcode _ hop, rfl, nofun⟩
  case h_16 => cases h

/-- A word is its three fields side by side (R95). -/
theorem fields_append (cw : CmdWord) : opField cw ++ zField cw ++ argField cw = cw := by
  have hlt := cw.isLt
  rw [← BitVec.toNat_inj, append_toNat, append_toNat, opField, zField, argField, field_toNat, field_toNat,
    field_toNat]
  omega

/-- Settles O2: the fields of a word that decodes are those of the command, and `Z` is zero. -/
theorem encodeOfDecode : Obligations.EncodeOfDecode := by
  intro cw blk i h
  unfold decode at h
  split at h
  · cases h
  split at h
  · next hz =>
    obtain ⟨hop, harg, hblk⟩ := decodeOp_encodes _ _ _ _ h
    refine ⟨?_, hblk⟩
    have hword := fields_append cw
    rw [hz] at hword
    rw [encode, Instr.word, hop, harg]
    exact hword
  · cases h

/-! ## Assembler lines (R102) -/

theorem asmArg_toNat (n : Arg) : asmArg n.toNat = some n := by
  rw [asmArg, if_pos n.isLt, BitVec.ofNat_toNat, BitVec.setWidth_eq]

theorem asmBlock_blockBytes (b : Block) : asmBlock (blockBytes b) = some b := by
  rw [asmBlock, if_pos (blockBytes_length b), blockOfBytes_blockBytes]

theorem asmCode_toNat (c : BitVec 3) (hc : legalCode c = true) : asmCode c.toNat = some c := by
  obtain ⟨h0, h7⟩ := (legalCode_iff c).1 hc
  have hlt := c.isLt
  rw [asmCode, if_pos (by omega), BitVec.ofNat_toNat, BitVec.setWidth_eq]

/-- A legal mode is written by its name (R25). -/
theorem asmMode_named (m : BitVec 2) (hm : legalMode m = true) : ∃ name, asmMode m = .mode name ∧ name.code = m := by
  have hlt := m.isLt
  have hne := (legalMode_iff m).1 hm
  have hcases : m = 0 ∨ m = 1 ∨ m = 2 := by
    bv_omega
  rcases hcases with rfl | rfl | rfl
  · exact ⟨.READ, rfl, rfl⟩
  · exact ⟨.WRITE, rfl, rfl⟩
  · exact ⟨.FORMAT, rfl, rfl⟩

theorem assemble_winit (m : BitVec 2) (k : BitVec 13) (hm : legalMode m = true) :
    assemble (disassemble (.winit m k)) = some (.winit m k) := by
  obtain ⟨name, hname, rfl⟩ := asmMode_named m hm
  rw [disassemble, hname]
  refine (if_pos k.isLt).trans ?_
  rw [BitVec.ofNat_toNat, BitVec.setWidth_eq]

theorem assemble_dechdr (o : BitVec 4) (b : Block) :
    assemble (disassemble (.dechdr o b)) = some (.dechdr o b) := by
  refine (if_pos o.isLt).trans ?_
  rw [asmBlock_blockBytes, BitVec.ofNat_toNat, BitVec.setWidth_eq]
  rfl

/-- Settles O5: each kind of operand is read back from how it is written. -/
theorem assembleOfDisassemble : Obligations.AssembleOfDisassemble := by
  intro i hi
  cases i with
  | locate n => exact congrArg (Option.map Instr.locate) (asmArg_toNat n)
  | istrl n => exact congrArg (Option.map Instr.istrl) (asmArg_toNat n)
  | isstart n => exact congrArg (Option.map Instr.isstart) (asmArg_toNat n)
  | ffs b => exact congrArg (Option.map Instr.ffs) (asmBlock_blockBytes b)
  | dechdr o b => exact assemble_dechdr o b
  | enchdr n => exact congrArg (Option.map Instr.enchdr) (asmArg_toNat n)
  | fterm b => exact congrArg (Option.map Instr.fterm) (asmBlock_blockBytes b)
  | bufsz n => exact congrArg (Option.map Instr.bufsz) (asmArg_toNat n)
  | winit m k => exact assemble_winit m k hi
  | wnext => rfl
  | wauth ok => cases ok <;> rfl
  | wack => rfl
  | wstop => rfl
  | wfail c => exact congrArg (Option.map Instr.wfail) (asmCode_toNat c hi)
  | wstat => rfl

end Sys2Proof.Machine
end

section
/-! SUPPORT. Laws that the spec draws from the pure commands: the geometry of the blocks (40_sector_geometry.md R113),
the header round trips (41_tlv_codec.md R125, R126), and the size against the frame (42_buffer_sizer.md R143). -/

namespace Sys2Proof.Machine

/-! ## The response of a command that completes -/

theorem Answers.eq_of_next {i : Instr} {s t : State} {u : UnitState} {r : Response} (h : Answers i s u r)
    (ht : exec i s = .next t) : t = { s with unit := u, rsps := r :: s.rsps } := by
  rw [h] at ht
  cases ht
  rfl

theorem Answers.lastRsp_eq {i : Instr} {s t : State} {u : UnitState} {r : Response} (h : Answers i s u r)
    (ht : exec i s = .next t) : t.lastRsp = r := by
  rw [h.eq_of_next ht]
  rfl

/-! ## Geometry (R113) -/

/-- A yes-or-no answer is the word 1 exactly for yes (R99). -/
theorem answerWord_eq_one_iff (b : Bool) : (BitVec.ofBool b).setWidth 32 = 1#32 ↔ b = true := by
  cases b <;> decide

/-- The sub-block of a response as an operand loses nothing. -/
theorem subBlockArg_toNat (n : Arg) : (((subBlockOf n).setWidth 32).setWidth 16).toNat = n.toNat % 4 := by
  rw [BitVec.toNat_setWidth, subBlockWord_toNat]
  omega

/-- Settles O15: the quotient and the remainder by four, and the tests of the remainder for 3 and for 0. -/
theorem geometryPartitionsTheBlocks : Obligations.GeometryPartitionsTheBlocks := by
  intro n s a ha
  have hsub := subBlockArg_toNat n
  rw [(locate_answers n s).lastRsp_eq ha]
  refine ⟨_, _, istrl_answers _ s, isstart_answers _ s, ?_, ?_, ?_, ?_, ?_⟩
  · rw [sectorWord_toNat, subBlockWord_toNat]
    omega
  · rw [subBlockWord_toNat]
    omega
  · exact (answerWord_eq_one_iff _).trans ((isTrailer_iff _).trans (by rw [hsub]))
  · exact (answerWord_eq_one_iff _).trans ((isSectorStart_iff _).trans (by rw [hsub]))
  · rintro ⟨htrailer, hstart⟩
    have h3 := (isTrailer_iff _).1 ((answerWord_eq_one_iff _).1 htrailer)
    have h0 := (isSectorStart_iff _).1 ((answerWord_eq_one_iff _).1 hstart)
    omega

/-! ## The header of a length, and its fields in the response words (R99, R123) -/

theorem headerBytes_of_short (n : Arg) (hn : n.toNat < 255) :
    headerBytes n = [0x00, 0x00, 0x03, BitVec.ofNat 8 n.toNat] := by
  have h := headerBytes_short n.toNat hn
  rwa [BitVec.ofNat_toNat, BitVec.setWidth_eq] at h

theorem headerBytes_of_long (n : Arg) (hn : 255 ≤ n.toNat) :
    headerBytes n = [0x03, 0xFF, BitVec.ofNat 8 (n.toNat / 256), BitVec.ofNat 8 (n.toNat % 256)] := by
  have hlt := n.isLt
  have h := headerBytes_long n.toNat hn (by omega)
  rwa [BitVec.ofNat_toNat, BitVec.setWidth_eq] at h

theorem header_of_headerBytes (st : BitVec 4) (n : Arg) (v1 : BitVec 32) :
    (⟨st, packHeader (headerBytes n), v1⟩ : Response).header = headerBytes n := by
  unfold headerBytes
  split <;> exact packHeader_header st _ _ _ _ v1

theorem payloadLength_of_decoded (st : BitVec 4) (n : Arg) (v1 : BitVec 32) :
    (⟨st, n.setWidth 32, v1⟩ : Response).payloadLength = n := by
  have hlt := n.isLt
  rw [← BitVec.toNat_inj, Response.payloadLength, field_toNat, lengthWord_toNat]
  omega

theorem payloadStart_of_decoded (st : BitVec 4) (v0 : BitVec 32) (n : Arg) (start : Nat) (long : Bool)
    (hstart : start < 32) :
    (⟨st, v0, packDecoded ⟨n, start, long⟩⟩ : Response).payloadStart = BitVec.ofNat 5 start := by
  rw [← BitVec.toNat_inj, Response.payloadStart, field_toNat, packDecoded_toNat n start long hstart,
    BitVec.toNat_ofNat]
  omega

theorem decodedLong_of_decoded (st : BitVec 4) (v0 : BitVec 32) (h : Header) :
    (⟨st, v0, packDecoded h⟩ : Response).decodedLong = h.long := by
  simp only [Response.decodedLong, packDecoded, BitVec.getLsbD_append]
  simp

theorem frameOffset_of_found (st : BitVec 4) (o : Nat) (v1 : BitVec 32) :
    (⟨st, BitVec.ofNat 32 o, v1⟩ : Response).frameOffset = BitVec.ofNat 4 o := by
  rw [← BitVec.toNat_inj, Response.frameOffset, field_toNat, BitVec.toNat_ofNat, BitVec.toNat_ofNat]
  omega

/-! ## Round trip (R125) -/

/-- `FFS` finds the type byte at `start` and `DECHDR` there decodes `n` with its payload at offset 4. -/
def HeaderReadBack (n : Arg) (b : Block) (start : Nat) : Prop :=
  scanFrameStart (blockBytes b) 0 = .ok start ∧ ∃ long, decodeHeader b start = .ok ⟨n, 4, long⟩

theorem headerReadBack_short (n : Arg) (b : Block) (hn : n.toNat < 255)
    (hb : ∀ i, i < 4 → blockByte b i = (headerBytes n).getD i 0) : HeaderReadBack n b 2 := by
  rw [headerBytes_of_short n hn] at hb
  have h0 : blockByte b 0 = 0x00 := hb 0 (by decide)
  have h1 : blockByte b 1 = 0x00 := hb 1 (by decide)
  have htype : blockByte b 2 = 0x03 := hb 2 (by decide)
  have hlen : blockByte b 3 = BitVec.ofNat 8 n.toNat := hb 3 (by decide)
  have hlenNat : (blockByte b 3).toNat = n.toNat := by
    rw [hlen, BitVec.toNat_ofNat, Nat.mod_eq_of_lt (by omega)]
  have hpad : ∀ i, i < 2 → blockByte b i = 0x00 := fun i hi => by
    interval_cases i
    · exact h0
    · exact h1
  refine ⟨?_, false, ?_⟩
  · rw [scanFrameStart_block b 2 (by decide) hpad (by rw [htype]; decide), if_pos htype]
  · have hform : blockByte b 3 ≠ 0xFF := fun h => by
      rw [h] at hlenNat
      exact absurd hlenNat (Nat.ne_of_gt hn)
    have hvalue : (blockByte b 3).setWidth 16 = n := by
      rw [← BitVec.toNat_inj, BitVec.toNat_setWidth_of_le (by decide), hlenNat]
    rw [decodeHeader_short b 2 htype (by decide) hform, hvalue]

theorem headerReadBack_long (n : Arg) (b : Block) (hn : 255 ≤ n.toNat)
    (hb : ∀ i, i < 4 → blockByte b i = (headerBytes n).getD i 0) : HeaderReadBack n b 0 := by
  rw [headerBytes_of_long n hn] at hb
  have hlt := n.isLt
  have htype : blockByte b 0 = 0x03 := hb 0 (by decide)
  have hform : blockByte b 1 = 0xFF := hb 1 (by decide)
  have hhigh : blockByte b 2 = BitVec.ofNat 8 (n.toNat / 256) := hb 2 (by decide)
  have hlow : blockByte b 3 = BitVec.ofNat 8 (n.toNat % 256) := hb 3 (by decide)
  refine ⟨?_, true, ?_⟩
  · rw [scanFrameStart_block b 0 (by decide) (fun i hi => absurd hi (Nat.not_lt_zero i)) (by rw [htype]; decide),
      if_pos htype]
  · have hvalue : blockByte b 2 ++ blockByte b 3 = n := by
      rw [← BitVec.toNat_inj, append_toNat, hhigh, hlow, BitVec.toNat_ofNat, BitVec.toNat_ofNat]
      omega
    rw [decodeHeader_long b 0 htype (by decide) hform, hvalue]

/-- Settles O20: the two forms, each found and decoded at its own offset. -/
theorem headerRoundTrip : Obligations.HeaderRoundTrip := by
  intro n b s a ha hb
  rw [(enchdr_answers n s).lastRsp_eq ha, header_of_headerBytes] at hb
  have hread : HeaderReadBack n b (if n.toNat < 255 then 2 else 0) := by
    split
    case isTrue hn => exact headerReadBack_short n b hn hb
    case isFalse hn => exact headerReadBack_long n b (Nat.not_lt.1 hn) hb
  obtain ⟨hffs, long, hdec⟩ := hread
  have hstart : (if n.toNat < 255 then 2 else 0) < 16 := by split <;> decide
  generalize (if n.toNat < 255 then 2 else 0) = o at hffs hdec hstart ⊢
  have hoffset : (BitVec.ofNat 4 o).toNat = o := by
    rw [BitVec.toNat_ofNat, Nat.mod_eq_of_lt hstart]
  have hdechdr := dechdr_answers_of_decoded (BitVec.ofNat 4 o) b s ⟨n, 4, long⟩ (by rw [hoffset]; exact hdec)
  rw [Answers, ← frameOffset_of_found 0 o 0] at hdechdr
  refine ⟨_, _, ffs_answers_of_found b s o hffs, hdechdr, rfl, ?_, rfl, payloadLength_of_decoded 0 n _,
    payloadStart_of_decoded 0 _ n 4 long (by decide)⟩
  show (BitVec.ofNat 32 o).toNat = o
  rw [BitVec.toNat_ofNat, Nat.mod_eq_of_lt (by omega)]

/-! ## Canonicity (R126) -/

/-- What a header that decodes looks like (R122). -/
theorem decodeHeader_ok {b : Block} {o : Nat} {h : Header} (hd : decodeHeader b o = .ok h) :
    blockByte b o = 0x03 ∧
      ((blockByte b (o + 1) ≠ 0xFF ∧ h = ⟨(blockByte b (o + 1)).setWidth 16, o + 2, false⟩) ∨
        (blockByte b (o + 1) = 0xFF ∧ h = ⟨blockByte b (o + 2) ++ blockByte b (o + 3), o + 4, true⟩)) := by
  by_cases htype : blockByte b o = 0x03
  · refine ⟨htype, ?_⟩
    rcases Nat.lt_or_ge 14 o with ho | ho
    · rw [decodeHeader_noLengthByte b o ho] at hd
      cases hd
    · rw [decodeHeader_typeByte b o htype ho] at hd
      split at hd
      case isTrue hlong =>
        split at hd
        · cases hd
        · cases hd
          exact .inr ⟨hlong, rfl⟩
      case isFalse hshort =>
        cases hd
        exact .inl ⟨hshort, rfl⟩
  · rw [decodeHeader_otherType b o htype] at hd
    cases hd

/-- A `DECHDR` with status 0 has decoded a header. -/
theorem dechdr_succeeded {o : BitVec 4} {b : Block} {s d : State} (hd : exec (.dechdr o b) s = .next d)
    (hst : d.lastRsp.st = 0) :
    ∃ h, decodeHeader b o.toNat = .ok h ∧ d.lastRsp = ⟨0, h.payloadLength.setWidth 32, packDecoded h⟩ := by
  cases hdec : decodeHeader b o.toNat with
  | ok h => exact ⟨h, rfl, (dechdr_answers_of_decoded o b s h hdec).lastRsp_eq hd⟩
  | error e =>
    rw [decodeHeader_error _ _ _ hdec] at hdec
    rw [(dechdr_answers_of_malformed o b s hdec).lastRsp_eq hd] at hst
    exact absurd hst (by decide)

/-- Encoding `n` gives back the form and the bytes of the header at offset `o`. -/
def Reencodes (b : Block) (o : Nat) (n : Arg) (long : Bool) : Prop :=
  (packHeaderForm n).getLsbD 0 = long ∧
    ∀ i, i < (if long then 4 else 2) →
      blockByte b (o + i) = (headerBytes n).getD (((packHeaderForm n).extractLsb' 1 2).toNat + i) 0

/-- A short header is always canonical. -/
theorem reencodes_short (b : Block) (o : Nat) (htype : blockByte b o = 0x03) (hform : blockByte b (o + 1) ≠ 0xFF) :
    Reencodes b o ((blockByte b (o + 1)).setWidth 16) false := by
  have hlt := (blockByte b (o + 1)).isLt
  have hne : (blockByte b (o + 1)).toNat ≠ 255 := fun h => hform (BitVec.eq_of_toNat_eq h)
  have hval : ((blockByte b (o + 1)).setWidth 16).toNat = (blockByte b (o + 1)).toNat :=
    BitVec.toNat_setWidth_of_le (by decide)
  have hn : ((blockByte b (o + 1)).setWidth 16).toNat < 255 := by omega
  rw [Reencodes, packHeaderForm_short _ hn, headerBytes_of_short _ hn, hval, BitVec.ofNat_toNat,
    BitVec.setWidth_eq]
  refine ⟨rfl, fun i hi => ?_⟩
  have hi2 : i < 2 := hi
  interval_cases i
  · exact htype
  · rfl

/-- A long header is canonical exactly from length 255 on. -/
theorem reencodes_long_iff (b : Block) (o : Nat) (htype : blockByte b o = 0x03)
    (hform : blockByte b (o + 1) = 0xFF) :
    Reencodes b o (blockByte b (o + 2) ++ blockByte b (o + 3)) true ↔
      255 ≤ (blockByte b (o + 2) ++ blockByte b (o + 3)).toNat := by
  have hval := append_toNat (blockByte b (o + 2)) (blockByte b (o + 3))
  have hlow := (blockByte b (o + 3)).isLt
  rcases Nat.lt_or_ge (blockByte b (o + 2) ++ blockByte b (o + 3)).toNat 255 with hn | hn
  · refine iff_of_false (fun h => ?_) (Nat.not_le.2 hn)
    have hflag := h.1
    rw [packHeaderForm_short _ hn] at hflag
    exact absurd hflag (by decide)
  · refine iff_of_true ?_ hn
    rw [Reencodes, packHeaderForm_long _ hn, headerBytes_of_long _ hn]
    refine ⟨rfl, fun i hi => ?_⟩
    have hi4 : i < 4 := hi
    interval_cases i
    · exact htype
    · exact hform
    · refine BitVec.eq_of_toNat_eq (.trans ?_ (BitVec.toNat_ofNat ..).symm)
      omega
    · refine BitVec.eq_of_toNat_eq (.trans ?_ (BitVec.toNat_ofNat ..).symm)
      omega

/-- Settles O21: a short header is canonical, a long one exactly when its length needs it. -/
theorem headerCanonicity : Obligations.HeaderCanonicity := by
  intro b o s d e hd hst he
  obtain ⟨h, hdec, hrsp⟩ := dechdr_succeeded hd hst
  rw [hrsp, payloadLength_of_decoded] at he ⊢
  rw [(enchdr_answers _ s).lastRsp_eq he, header_of_headerBytes, decodedLong_of_decoded]
  obtain ⟨htype, ⟨hform, rfl⟩ | ⟨hform, rfl⟩⟩ := decodeHeader_ok hdec
  · exact iff_of_true (reencodes_short b _ htype hform) (fun hbad => Bool.false_ne_true hbad.1)
  · refine (reencodes_long_iff b _ htype hform).trans ?_
    rw [and_iff_right rfl, Nat.not_lt]

/-! ## The size against the frame (R143) -/

/-- Settles O25: the size rounds up length + 3 or length + 5, the frame is length + 5 bytes. -/
theorem bufszAgainstTheFrame : Obligations.BufszAgainstTheFrame := by
  intro p s a hmax ha
  have harg : (BitVec.ofNat 16 p.length).toNat = p.length := by
    rw [BitVec.toNat_ofNat, Nat.mod_eq_of_lt (by omega)]
  rw [(bufsz_answers _ s).lastRsp_eq ha, bufferSizeWord_toNat, harg, frame_length]
  refine ⟨fun hlong => bufferSize_long _ hlong, fun hshort => ?_, fun hshort => ?_, fun hshort => ?_⟩ <;>
    rw [bufferSize_short _ hshort, ceil16_eq] <;> omega

end Sys2Proof.Machine
end

section
/-! SUPPORT. Everything a command can do, said once: each command completes with one response over a new record of the
unit, by one of the moves of `CommandMove` (41_tlv_codec.md, 43_block_iterator.md). What the spec derives from the
command rules follows move by move. -/

namespace Sys2Proof.Machine

/-! ## The moves -/

/-- What a pure command answers: status 0, or a codec error with nothing beside it (R98, R121, R122). -/
def PureResponse (r : Response) : Prop := r.st = 0 ∨ r = ⟨3, 0, 0⟩ ∨ r = ⟨4, 0, 0⟩

/-- The block under the cursor is one that step (3) of `WNEXT` looks at: behind `LAST_BLOCK` only in mode 3, which no
walk holds (R31 i; log 11). -/
def UnitState.Classifiable (last : BitVec 8) (u : UnitState) : Prop := u.mode = 3 ∨ u.bidx.toNat ≤ last.toNat

/-- The command `i` may take the record `u` to the record `u'` and answer `r`. -/
inductive CommandMove (last : BitVec 8) (u : UnitState) : Instr → UnitState → Response → Prop
  /-- a pure command (R39) -/
  | pure (i : Instr) (r : Response) (hi : isPure i = true) (hr : PureResponse r) : CommandMove last u i u r
  /-- `WSTAT` (R157) -/
  | status : CommandMove last u .wstat u ⟨0, packStatus u, u.bcnt.setWidth 32⟩
  /-- refused for its operand (R100) -/
  | illegal (i : Instr) (hi : i.wellFormed = false) : CommandMove last u i u ⟨8, 0, 0⟩
  /-- refused for the state of the walk (R161) -/
  | outOfOrder (i : Instr) (hi : i.wellFormed = true) (h : outOfOrder u i) : CommandMove last u i u ⟨9, 0, 0⟩
  /-- `WINIT` (R151) -/
  | started (m : BitVec 2) (k : BitVec 13) (hm : m ≠ 3) : CommandMove last u (.winit m k) (.startWalk m k) ⟨0, 0, 0⟩
  /-- `WNEXT`, step (1): the budget is reached (R152) -/
  | budgetReached (hp : u.phase.active = true) (hm : u.mode ≠ 2) (hb : u.limit.toNat ≤ u.bcnt.toNat) :
    CommandMove last u .wnext u.endWalk ⟨0, packYield u.bidx false false true false, u.bcnt.setWidth 32⟩
  /-- `WNEXT`, step (2): a format is done (R152) -/
  | formatEnded (hp : u.phase.active = true) (hm : u.mode = 2) (hl : last.toNat < u.bidx.toNat) :
    CommandMove last u .wnext u.endWalk ⟨0, packYield u.bidx false false true true, u.bcnt.setWidth 32⟩
  /-- `WNEXT`, step (2): a read or a write runs past `LAST_BLOCK` (R152) -/
  | mediumEnded (e : Status) (hp : u.phase.active = true) (hb : u.WithinBudget) (hl : last.toNat < u.bidx.toNat)
    (he : u.mode = 0 ∧ e = .missingTerminator ∨ u.mode = 1 ∧ e = .ioFailure) :
    CommandMove last u .wnext (u.failWalk e.errCode) ⟨e.code, u.bidx.setWidth 32, 0⟩
  /-- `WNEXT`, step (4): an `A` yield (R152) -/
  | asksAuth (hp : u.phase = .authenticating) (hb : u.WithinBudget) (hl : u.Classifiable last) :
    CommandMove last u .wnext { u with pend := true }
      ⟨0, packYield u.bidx true false false false, u.bcnt.setWidth 32⟩
  /-- `WNEXT`, step (5): an `S` yield (R152) -/
  | skipsTrailer (hp : u.phase = .transferring) (hb : u.WithinBudget) (hl : u.Classifiable last)
    (ht : u.bidx.toNat % 4 = 3) :
    CommandMove last u .wnext { u with bidx := u.bidx + 1, pend := false, phase := .authenticating }
      ⟨0, packYield u.bidx false true false false, u.bcnt.setWidth 32⟩
  /-- `WNEXT`, step (6): a data yield (R152) -/
  | asksTransfer (hp : u.phase = .transferring) (hb : u.WithinBudget) (hl : u.Classifiable last)
    (ht : u.bidx.toNat % 4 ≠ 3) :
    CommandMove last u .wnext { u with pend := true }
      ⟨0, packYield u.bidx false false false false, u.bcnt.setWidth 32⟩
  /-- `WAUTH 1` (R153) -/
  | authGranted (hp : u.phase = .authenticating) (hpend : u.pend = true) :
    CommandMove last u (.wauth true) { u with phase := .transferring, pend := false } ⟨0, 0, 0⟩
  /-- `WAUTH 0` (R153) -/
  | authRefused (hp : u.phase = .authenticating) (hpend : u.pend = true) :
    CommandMove last u (.wauth false) (u.failWalk 1) ⟨0, 0, 0⟩
  /-- `WACK` (R154) -/
  | acked (hp : u.phase = .transferring) (hpend : u.pend = true) :
    CommandMove last u .wack { u with bcnt := u.bcnt + 16, bidx := u.bidx + 1, pend := false } ⟨0, 0, 0⟩
  /-- `WSTOP` (R155) -/
  | stopped (hp : u.phase.active = true) : CommandMove last u .wstop u.endWalk ⟨0, 0, 0⟩
  /-- `WFAIL` (R156) -/
  | failed (c : BitVec 3) (hc : legalCode c = true) (hp : u.phase.active = true) :
    CommandMove last u (.wfail c) (u.failWalk c) ⟨0, 0, 0⟩

/-- The command completes in the state `s` by one of the moves. -/
def Moves (i : Instr) (s : State) : Prop :=
  ∃ u r, CommandMove s.params.lastBlock s.unit i u r ∧ Answers i s u r

/-! ## Every command makes a move -/

/-- A pure command gives one response, the same in every state, and leaves the unit alone (R39). -/
theorem pure_answers (i : Instr) (hi : isPure i = true) :
    ∃ r, PureResponse r ∧ ∀ s : State, Answers i s s.unit r := by
  cases i with
  | locate n => exact ⟨_, .inl rfl, locate_answers n⟩
  | istrl n => exact ⟨_, .inl rfl, istrl_answers n⟩
  | isstart n => exact ⟨_, .inl rfl, isstart_answers n⟩
  | ffs b =>
    cases h : scanFrameStart (blockBytes b) 0 with
    | ok o => exact ⟨_, .inl rfl, fun s => ffs_answers_of_found b s o h⟩
    | error e =>
      refine ⟨_, ?_, fun s => ffs_answers_of_error b s e h⟩
      rcases scanFrameStart_error _ _ _ h with rfl | rfl
      · exact .inr (.inl rfl)
      · exact .inr (.inr rfl)
  | dechdr o b =>
    cases h : decodeHeader b o.toNat with
    | ok hd => exact ⟨_, .inl rfl, fun s => dechdr_answers_of_decoded o b s hd h⟩
    | error e =>
      obtain rfl := decodeHeader_error _ _ _ h
      exact ⟨_, .inr (.inl rfl), fun s => dechdr_answers_of_malformed o b s h⟩
  | enchdr n => exact ⟨_, .inl rfl, enchdr_answers n⟩
  | fterm b => exact ⟨_, .inl rfl, fun s => fterm_answers b s _ rfl⟩
  | bufsz n => exact ⟨_, .inl rfl, bufsz_answers n⟩
  | _ => cases hi

theorem pure_moves (i : Instr) (s : State) (hi : isPure i = true) : Moves i s := by
  obtain ⟨r, hr, h⟩ := pure_answers i hi
  exact ⟨_, r, .pure i r hi hr, h s⟩

theorem Phase.transferring_of_active {p : Phase} (hp : p.active = true) (hne : p ≠ .authenticating) :
    p = .transferring := by
  revert hp hne
  cases p <;> decide

/-- Every yield writes `PEND`, so that clearing it before the classification does not matter (log 11). -/
theorem classifyNext_clearedPend (s : State) :
    classifyNext (s.withUnit { s.unit with pend := false }) = classifyNext s := rfl

theorem classifyNext_moves (s : State) (hp : s.unit.phase.active = true) (hb : s.unit.WithinBudget)
    (hl : s.unit.Classifiable s.params.lastBlock) (h : exec .wnext s = classifyNext s) : Moves .wnext s := by
  rcases classifyNext_cases s with ⟨ha, hc⟩ | ⟨hne, ht, hc⟩ | ⟨hne, ht, hc⟩
  · exact ⟨_, _, .asksAuth ha hb hl, h.trans hc⟩
  · exact ⟨_, _, .skipsTrailer (Phase.transferring_of_active hp hne) hb hl ht, h.trans hc⟩
  · exact ⟨_, _, .asksTransfer (Phase.transferring_of_active hp hne) hb hl ht, h.trans hc⟩

/-- Behind the last block the four modes end in four ways (R152; log 11). -/
theorem wnext_behind_moves (s : State) (hp : s.unit.phase.active = true) (hb : s.unit.WithinBudget)
    (hl : s.params.lastBlock.toNat < s.unit.bidx.toNat) : Moves .wnext s := by
  have h := wnext_behindLastBlock s hp hb hl
  split at h
  next hm => exact ⟨_, _, .formatEnded hp hm hl, h⟩
  split at h
  next hm => exact ⟨_, _, .mediumEnded .missingTerminator hp hb hl (.inl ⟨hm, rfl⟩), h⟩
  split at h
  next hm => exact ⟨_, _, .mediumEnded .ioFailure hp hb hl (.inr ⟨hm, rfl⟩), h⟩
  next h2 h0 h1 =>
    have hm : s.unit.mode = 3 := by
      simp only [modeFormat, modeRead, modeWrite] at h2 h0 h1
      bv_omega
    exact classifyNext_moves s hp hb (.inl hm) (h.trans (classifyNext_clearedPend s))

theorem wnext_moves (s : State) (hp : s.unit.phase.active = true) : Moves .wnext s := by
  by_cases hb : s.unit.WithinBudget
  · rcases Nat.lt_or_ge s.params.lastBlock.toNat s.unit.bidx.toNat with hl | hl
    · exact wnext_behind_moves s hp hb hl
    · exact classifyNext_moves s hp hb (.inr hl) (wnext_classifies s hp hb hl)
  · obtain ⟨hm, hle⟩ := not_or.1 hb
    have hle := Nat.not_lt.1 hle
    exact ⟨_, _, .budgetReached hp hm hle, wnext_budgetReached s hp hm hle⟩

/-- A command within R97 that is in order. -/
theorem inOrder_moves (i : Instr) (s : State) (hi : i.wellFormed = true) (h : ¬outOfOrder s.unit i) : Moves i s := by
  cases i with
  | winit m k =>
    have hm : m ≠ 3 := bne_iff_ne.1 hi
    exact ⟨_, _, .started m k hm, winit_answers m k s hm⟩
  | wnext => exact wnext_moves s (Phase.active_of_not_inactive h)
  | wauth ok =>
    obtain ⟨hp, hpend⟩ := not_not.1 h
    cases ok with
    | true => exact ⟨_, _, .authGranted hp hpend, wauth_true_answers s ⟨hp, hpend⟩⟩
    | false => exact ⟨_, _, .authRefused hp hpend, wauth_false_answers s ⟨hp, hpend⟩⟩
  | wack =>
    obtain ⟨hp, hpend⟩ := not_not.1 h
    exact ⟨_, _, .acked hp hpend, wack_answers s ⟨hp, hpend⟩⟩
  | wstop =>
    have hp := Phase.active_of_not_inactive h
    exact ⟨_, _, .stopped hp, wstop_answers s hp⟩
  | wfail c =>
    have hp := Phase.active_of_not_inactive h
    exact ⟨_, _, .failed c hi hp, wfail_answers c s hi hp⟩
  | wstat => exact ⟨_, _, .status, wstat_answers s⟩
  | _ => exact pure_moves _ s rfl

/-- Every command completes, in every state, by one of the moves (R259). -/
theorem exec_moves (i : Instr) (s : State) : Moves i s := by
  cases hi : i.wellFormed with
  | false => exact ⟨_, _, .illegal i hi, exec_illFormed i s hi⟩
  | true =>
    by_cases h : outOfOrder s.unit i
    · exact ⟨_, _, .outOfOrder i hi h, exec_outOfOrder i s hi h⟩
    · exact inOrder_moves i s hi h

/-- What a command that answers `t` has done. -/
theorem exec_next {i : Instr} {s t : State} (h : exec i s = .next t) :
    ∃ u r, CommandMove s.params.lastBlock s.unit i u r ∧ t = { s with unit := u, rsps := r :: s.rsps } := by
  obtain ⟨u, r, hmove, hans⟩ := exec_moves i s
  exact ⟨u, r, hmove, hans.eq_of_next h⟩

/-- The same for a command whose response is known to be `r`. -/
theorem exec_next_rsp {i : Instr} {s t : State} {r : Response} (h : exec i s = .next t)
    (hr : t.rsps = r :: s.rsps) :
    ∃ u, CommandMove s.params.lastBlock s.unit i u r ∧ t = { s with unit := u, rsps := r :: s.rsps } := by
  obtain ⟨u, r', hmove, rfl⟩ := exec_next h
  cases hr
  exact ⟨u, hmove, rfl⟩

/-- Settles O8: the response and the record are all that a command writes. -/
theorem everyCommandAnswersOnce : Obligations.EveryCommandAnswersOnce := by
  intro i s
  obtain ⟨u, r, -, h⟩ := exec_moves i s
  exact ⟨_, r, h, rfl, fun _ => rfl, rfl, rfl, rfl, rfl, rfl, rfl, rfl, rfl⟩

/-- Settles O10: the response of a pure command is one and the same in every state. -/
theorem pureCommandsReadNoState : Obligations.PureCommandsReadNoState := by
  intro i s s' t t' hi ht ht'
  obtain ⟨r, -, h⟩ := pure_answers i hi
  rw [(h s).lastRsp_eq ht, (h s').lastRsp_eq ht']

/-! ## What the moves have in common -/

section
variable {last : BitVec 8} {u u' : UnitState} {i : Instr} {r : Response}

/-- Pure, `WSTAT` and refused: the record stays (R39). -/
theorem CommandMove.unit_eq (h : CommandMove last u i u' r)
    (hq : isPure i = true ∨ i = .wstat ∨ r.st = 8 ∨ r.st = 9) : u' = u := by
  cases h with
  | pure | status | illegal | outOfOrder => rfl
  | mediumEnded e _ _ _ he =>
    rcases he with ⟨-, rfl⟩ | ⟨-, rfl⟩ <;> exact absurd hq (by simp [isPure, Status.code])
  | _ => exact absurd hq (by simp [isPure])

/-- The statuses of R211, and what comes with them (R98). -/
theorem CommandMove.named (h : CommandMove last u i u' r) :
    (r.st.toNat ≤ 6 ∨ r.st = 8 ∨ r.st = 9) ∧
    (r.st ≠ 0 → (r.v0 = 0 ∧ r.v1 = 0) ∨
      (i = .wnext ∧ (r.st = 2 ∨ r.st = 5) ∧ r.v0.toNat = u.bidx.toNat ∧ r.v1 = 0)) := by
  cases h with
  | pure i r hi hr =>
    rcases hr with hr | rfl | rfl
    · rw [hr]
      exact ⟨by decide, fun hne => absurd rfl hne⟩
    · exact ⟨by decide, fun _ => .inl ⟨rfl, rfl⟩⟩
    · exact ⟨by decide, fun _ => .inl ⟨rfl, rfl⟩⟩
  | illegal | outOfOrder => exact ⟨by decide, fun _ => .inl ⟨rfl, rfl⟩⟩
  | mediumEnded e _ _ _ he =>
    have hblk : (u.bidx.setWidth 32).toNat = u.bidx.toNat := BitVec.toNat_setWidth_of_le (by decide)
    rcases he with ⟨-, rfl⟩ | ⟨-, rfl⟩
    · exact ⟨.inl (show (5 : BitVec 4).toNat ≤ 6 by decide), fun _ => .inr ⟨rfl, .inr rfl, hblk, rfl⟩⟩
    · exact ⟨.inl (show (2 : BitVec 4).toNat ≤ 6 by decide), fun _ => .inr ⟨rfl, .inl rfl, hblk, rfl⟩⟩
  | _ => exact ⟨.inl (Nat.zero_le 6), fun hne => absurd rfl hne⟩

/-- A record changes only where a walk starts or one is active (R224). -/
theorem CommandMove.kept_or_started_or_active (h : CommandMove last u i u' r) :
    u' = u ∨ (∃ m k, i = .winit m k ∧ u' = .startWalk m k) ∨ u.phase.active = true := by
  cases h with
  | pure | status | illegal | outOfOrder => exact .inl rfl
  | started m k => exact .inr (.inl ⟨m, k, rfl, rfl⟩)
  | budgetReached hp | formatEnded hp | mediumEnded _ hp | stopped hp | failed _ _ hp => exact .inr (.inr hp)
  | asksAuth hp | skipsTrailer hp | asksTransfer hp | authGranted hp | authRefused hp | acked hp =>
    exact .inr (.inr (by rw [hp]; rfl))

/-- The one way into `Transferring` (R153, R246). -/
theorem CommandMove.opens (h : CommandMove last u i u' r) (hp' : u'.phase = .transferring) :
    u.phase = .transferring ∨
      (i = .wauth true ∧ u.phase = .authenticating ∧ u.pend = true ∧ u'.bidx = u.bidx) := by
  cases h with
  | pure | status | illegal | outOfOrder => exact .inl hp'
  | asksTransfer hp | acked hp => exact .inl hp
  | authGranted hp hpend => exact .inr ⟨rfl, hp, hpend, rfl⟩
  | asksAuth hp => exact absurd (hp.symm.trans hp') (by decide)
  | _ => cases hp'

theorem Status.errCode_of_end {e : Status} {m : BitVec 2}
    (he : m = 0 ∧ e = .missingTerminator ∨ m = 1 ∧ e = .ioFailure) : legalCode e.errCode = true := by
  rcases he with ⟨-, rfl⟩ | ⟨-, rfl⟩ <;> rfl

/-- A walk fails by error entry alone, with a kind of R211 (R222). -/
theorem CommandMove.fails (h : CommandMove last u i u' r) (hne : u.phase ≠ .failed) (hp' : u'.phase = .failed) :
    ∃ c, legalCode c = true ∧ u' = u.failWalk c := by
  cases h with
  | pure | status | illegal | outOfOrder => exact absurd hp' hne
  | mediumEnded e _ _ _ he => exact ⟨_, Status.errCode_of_end he, rfl⟩
  | authRefused => exact ⟨1, rfl, rfl⟩
  | failed c hc => exact ⟨c, hc, rfl⟩
  | asksAuth | asksTransfer | acked => exact absurd hp' hne
  | _ => cases hp'

end

/-- Settles O9: the moves that such a command can make keep the record. -/
theorem pureAndRefusedCommandsWriteNoState : Obligations.PureAndRefusedCommandsWriteNoState := by
  intro i s t r h hr hq
  obtain ⟨u, hmove, rfl⟩ := exec_next_rsp h hr
  exact hmove.unit_eq hq

/-- Settles O11: status by status of the moves. -/
theorem responsesCarryNamedStatuses : Obligations.ResponsesCarryNamedStatuses := by
  intro i s t r h hr
  obtain ⟨u, hmove, rfl⟩ := exec_next_rsp h hr
  exact hmove.named

/-- Settles O34: in an inactive phase the record stays or a walk starts. -/
theorem onlyWinitLeavesAnInactivePhase : Obligations.OnlyWinitLeavesAnInactivePhase := by
  intro i s t hp h
  obtain ⟨u, r, hmove, rfl⟩ := exec_next h
  rcases hmove.kept_or_started_or_active with hkept | ⟨m, k, rfl, rfl⟩ | hactive
  · exact .inl hkept
  · exact .inr ⟨⟨m, k, rfl⟩, rfl, rfl, rfl, rfl⟩
  · rw [s.unit.phase.active_eq_false_iff.2 hp] at hactive
    cases hactive

/-- Settles O35: the one move into `Transferring`. -/
theorem onlyWauthOpensASector : Obligations.OnlyWauthOpensASector := by
  intro i s t h hp
  obtain ⟨u, r, hmove, rfl⟩ := exec_next h
  exact hmove.opens hp

/-- Settles O38: error entry. -/
theorem errorEntrySavesKindAndBlock : Obligations.ErrorEntrySavesKindAndBlock := by
  intro i s t h hne hp
  obtain ⟨u, r, hmove, rfl⟩ := exec_next h
  obtain ⟨c, hc, rfl⟩ := hmove.fails hne hp
  obtain ⟨h0, h7⟩ := (legalCode_iff c).1 hc
  exact ⟨fun h => h0 (congrArg BitVec.toNat h), fun h => h7 (congrArg BitVec.toNat h), rfl, rfl, rfl, rfl, rfl, rfl⟩

/-- Right after reset the iterator commands but `WINIT` and `WSTAT` are out of order (R241). -/
theorem outOfOrder_reset_iff (i : Instr) : outOfOrder .reset i ↔
    i = .wnext ∨ (∃ ok, i = .wauth ok) ∨ i = .wack ∨ i = .wstop ∨ ∃ c, i = .wfail c := by
  cases i <;> simp [outOfOrder, UnitState.reset]

/-- Settles O46: the out-of-order rule at the reset record, and the status word of that record. -/
theorem afterResetOnlyWinitMoves : Obligations.AfterResetOnlyWinitMoves := by
  intro s i hu hi
  obtain ⟨u, r, -, h⟩ := exec_moves i s
  refine ⟨_, r, h, rfl, ?_, ?_⟩
  · have hnine := (illegalSequenceExactly i s _ r hi h rfl).1
    rw [hu] at hnine
    exact hnine.trans (outOfOrder_reset_iff i)
  · rintro rfl
    have hr := (wstat_answers s).lastRsp_eq h
    rw [hu] at hr
    exact hr

end Sys2Proof.Machine
end

section
/-! SUPPORT. The invariants of the unit (10_state.md R31): each update of the record keeps them, so every move of a
command does; and what the spec derives from them about the cursor, the counter and the yields (R21, R27, R152, R159). -/

namespace Sys2Proof.Machine

/-! ## Consequences of the invariant -/

section
variable {last : BitVec 8} {u : UnitState}

theorem Phase.ne_failed_of_active {p : Phase} (hp : p.active = true) : p ≠ .failed := by
  rintro rfl
  cases hp

/-- An active walk has been started (R38). -/
theorem UnitInv.bidx_ne_zero (h : UnitInv last u) (hp : u.phase.active = true) : u.bidx ≠ 0 := by
  intro hz
  rw [h.notStarted hz] at hp
  cases hp

theorem UnitInv.cursor_of_active (h : UnitInv last u) (hp : u.phase.active = true) :
    4 ≤ u.bidx.toNat ∧ u.bidx.toNat ≤ last.toNat + 1 :=
  h.cursorRange (h.bidx_ne_zero hp)

/-- An active walk has no error latched (R31 f). -/
theorem UnitInv.no_error (h : UnitInv last u) (hp : u.phase.active = true) : u.err = 0 := by
  by_contra hne
  exact Phase.ne_failed_of_active hp (h.errIffFailed.1.1 hne)

/-- The counter is 16 times the number of the data block under the cursor (R31 h). -/
theorem UnitInv.counter_eq (h : UnitInv last u) (hp : u.phase.active = true) :
    u.bcnt.toNat = 16 * (3 * ((u.bidx.toNat - 4) / 4) + u.bidx.toNat % 4) :=
  h.counterTiedToCursor (h.bidx_ne_zero hp)

/-- `MODE` is legal, so that step (3) of `WNEXT` sees only blocks up to `LAST_BLOCK`. -/
theorem UnitInv.classifiable (h : UnitInv last u) (hl : u.Classifiable last) : u.bidx.toNat ≤ last.toNat :=
  hl.resolve_left h.modeLegal

theorem active_of_authenticating (hp : u.phase = .authenticating) : u.phase.active = true := by rw [hp]; rfl
theorem active_of_transferring (hp : u.phase = .transferring) : u.phase.active = true := by rw [hp]; rfl

/-! ## The updates keep the invariant -/

theorem UnitInv.startWalk (m : BitVec 2) (k : BitVec 13) (hm : m ≠ 3) (hlast : 4 ≤ last.toNat) :
    UnitInv last (.startWalk m k) where
  atSectorStart _ := ⟨by rw [UnitState.startWalk_bidx]; rfl, show 4 ≤ last.toNat + 1 by omega⟩
  pendLegal h := nomatch h
  wholeBlocks := ⟨rfl, by rw [UnitState.startWalk_limit, Nat.mul_mod_right]⟩
  withinBudget _ := Nat.zero_le _
  errIffFailed := ⟨iff_of_false (fun h => h rfl) nofun, fun _ => rfl, show (0 : BitVec 3) ≠ 7 by decide⟩
  errblkIsCursor h := nomatch h
  cursorRange _ := ⟨Nat.le_refl 4, show 4 ≤ last.toNat + 1 by omega⟩
  counterTiedToCursor _ := by rw [UnitState.startWalk_bcnt, UnitState.startWalk_bidx]; rfl
  modeLegal := hm
  notStarted h := absurd h (by rw [UnitState.startWalk_bidx]; decide)

theorem UnitInv.endWalk (h : UnitInv last u) (hp : u.phase.active = true) : UnitInv last u.endWalk where
  atSectorStart hq := nomatch hq
  pendLegal hq := nomatch hq
  wholeBlocks := h.wholeBlocks
  withinBudget := h.withinBudget
  errIffFailed := ⟨iff_of_false (fun hne => hne (h.no_error hp)) nofun, h.errIffFailed.2⟩
  errblkIsCursor hq := nomatch hq
  cursorRange := h.cursorRange
  counterTiedToCursor := h.counterTiedToCursor
  modeLegal := h.modeLegal
  notStarted hz := absurd hz (h.bidx_ne_zero hp)

theorem UnitInv.failWalk (h : UnitInv last u) (hp : u.phase.active = true) (c : BitVec 3) (hc : legalCode c = true) :
    UnitInv last (u.failWalk c) where
  atSectorStart hq := nomatch hq
  pendLegal hq := nomatch hq
  wholeBlocks := h.wholeBlocks
  withinBudget := h.withinBudget
  errIffFailed := by
    obtain ⟨h0, h7⟩ := (legalCode_iff c).1 hc
    have hne : c ≠ 0 := fun hz => h0 (congrArg BitVec.toNat hz)
    exact ⟨iff_of_true hne rfl, fun hz => absurd hz hne, fun hz => h7 (congrArg BitVec.toNat hz)⟩
  errblkIsCursor _ := rfl
  cursorRange := h.cursorRange
  counterTiedToCursor := h.counterTiedToCursor
  modeLegal := h.modeLegal
  notStarted hz := absurd hz (h.bidx_ne_zero hp)

/-- A yield that waits for an outcome (R31 b, R31 c). -/
theorem UnitInv.setPend (h : UnitInv last u) (hp : u.phase.active = true) (hb : u.WithinBudget)
    (hl : u.bidx.toNat ≤ last.toNat) (ht : u.bidx.toNat % 4 ≠ 3) : UnitInv last { u with pend := true } where
  atSectorStart := h.atSectorStart
  pendLegal _ := ⟨hp, hl, ht, hb, fun hq => (h.atSectorStart hq).1⟩
  wholeBlocks := h.wholeBlocks
  withinBudget := h.withinBudget
  errIffFailed := h.errIffFailed
  errblkIsCursor := h.errblkIsCursor
  cursorRange := h.cursorRange
  counterTiedToCursor := h.counterTiedToCursor
  modeLegal := h.modeLegal
  notStarted hz := absurd hz (h.bidx_ne_zero hp)

theorem UnitInv.openSector (h : UnitInv last u) (hp : u.phase.active = true) :
    UnitInv last { u with phase := .transferring, pend := false } where
  atSectorStart hq := nomatch hq
  pendLegal hq := nomatch hq
  wholeBlocks := h.wholeBlocks
  withinBudget := h.withinBudget
  errIffFailed := ⟨iff_of_false (fun hne => hne (h.no_error hp)) nofun, h.errIffFailed.2⟩
  errblkIsCursor hq := nomatch hq
  cursorRange := h.cursorRange
  counterTiedToCursor := h.counterTiedToCursor
  modeLegal := h.modeLegal
  notStarted hz := absurd hz (h.bidx_ne_zero hp)

/-- The cursor does not wrap below the end of the medium (R21). -/
theorem cursor_succ_toNat {b : BitVec 8} (hb : b.toNat ≤ 63) : (b + 1).toNat = b.toNat + 1 := by
  bv_omega

theorem UnitInv.skipTrailer (h : UnitInv last u) (hp : u.phase.active = true) (hlast : last.toNat ≤ 63)
    (hl : u.bidx.toNat ≤ last.toNat) (ht : u.bidx.toNat % 4 = 3) :
    UnitInv last { u with bidx := u.bidx + 1, pend := false, phase := .authenticating } := by
  have hnext : (u.bidx + 1).toNat = u.bidx.toNat + 1 := cursor_succ_toNat (hl.trans hlast)
  have hlow := (h.cursor_of_active hp).1
  have hcnt := h.counter_eq hp
  exact {
    atSectorStart := fun _ => show (u.bidx + 1).toNat % 4 = 0 ∧ (u.bidx + 1).toNat ≤ _ by omega
    pendLegal := nofun
    wholeBlocks := h.wholeBlocks
    withinBudget := h.withinBudget
    errIffFailed := ⟨iff_of_false (fun hne => hne (h.no_error hp)) nofun, h.errIffFailed.2⟩
    errblkIsCursor := nofun
    cursorRange := fun _ => show 4 ≤ (u.bidx + 1).toNat ∧ (u.bidx + 1).toNat ≤ _ by omega
    counterTiedToCursor := fun _ =>
      show u.bcnt.toNat = 16 * (3 * (((u.bidx + 1).toNat - 4) / 4) + (u.bidx + 1).toNat % 4) by omega
    modeLegal := h.modeLegal
    notStarted := fun hz => absurd (congrArg BitVec.toNat hz) (show (u.bidx + 1).toNat ≠ 0 by omega) }

/-- A pending transfer names a data block, and its counter stays below the end of the walk's data (R27). -/
theorem UnitInv.pending_counter (h : UnitInv last u) (hlast : last.toNat ≤ 63) (hpend : u.pend = true) :
    u.bcnt.toNat ≤ 704 := by
  obtain ⟨hp, hl, ht, -, -⟩ := h.pendLegal hpend
  have hlow := (h.cursor_of_active hp).1
  have hcnt := h.counter_eq hp
  omega

/-- The counter does not wrap at an acknowledgement (R27). -/
theorem UnitInv.counter_add_toNat (h : UnitInv last u) (hlast : last.toNat ≤ 63) (hpend : u.pend = true) :
    (u.bcnt + 16).toNat = u.bcnt.toNat + 16 := by
  have hcnt := h.pending_counter hlast hpend
  bv_omega

theorem UnitInv.ack (h : UnitInv last u) (hlast : last.toNat ≤ 63) (hp : u.phase = .transferring)
    (hpend : u.pend = true) :
    UnitInv last { u with bcnt := u.bcnt + 16, bidx := u.bidx + 1, pend := false } := by
  obtain ⟨hactive, hl, ht, hbudget, -⟩ := h.pendLegal hpend
  have hnext : (u.bidx + 1).toNat = u.bidx.toNat + 1 := cursor_succ_toNat (hl.trans hlast)
  have hadd := h.counter_add_toNat hlast hpend
  have hlow := (h.cursor_of_active hactive).1
  have hcnt := h.counter_eq hactive
  obtain ⟨hwhole, hlimit⟩ := h.wholeBlocks
  exact {
    atSectorStart := fun hq => absurd (hp.symm.trans hq) (by decide)
    pendLegal := nofun
    wholeBlocks := ⟨show (u.bcnt + 16).toNat % 16 = 0 by omega, hlimit⟩
    withinBudget := fun hm => show (u.bcnt + 16).toNat ≤ u.limit.toNat by
      have hlt := hbudget.resolve_left hm
      omega
    errIffFailed := h.errIffFailed
    errblkIsCursor := fun hq => absurd (hp.symm.trans hq) (by decide)
    cursorRange := fun _ => show 4 ≤ (u.bidx + 1).toNat ∧ (u.bidx + 1).toNat ≤ _ by omega
    counterTiedToCursor := fun _ => show (u.bcnt + 16).toNat =
        16 * (3 * (((u.bidx + 1).toNat - 4) / 4) + (u.bidx + 1).toNat % 4) by omega
    modeLegal := h.modeLegal
    notStarted := fun hz => absurd (congrArg BitVec.toNat hz) (show (u.bidx + 1).toNat ≠ 0 by omega) }

/-- Every move keeps the invariant (R31). -/
theorem CommandMove.keeps_unitInv {i : Instr} {u' : UnitState} {r : Response} (hmove : CommandMove last u i u' r)
    (hlow : 4 ≤ last.toNat) (hhigh : last.toNat ≤ 63) (h : UnitInv last u) : UnitInv last u' := by
  cases hmove with
  | pure | status | illegal | outOfOrder => exact h
  | started m k hm => exact .startWalk m k hm hlow
  | budgetReached hp | formatEnded hp | stopped hp => exact h.endWalk hp
  | mediumEnded e hp _ _ he => exact h.failWalk hp _ (Status.errCode_of_end he)
  | asksAuth hp hb hl =>
    have hstart := (h.atSectorStart hp).1
    exact h.setPend (active_of_authenticating hp) hb (h.classifiable hl) (by omega)
  | skipsTrailer hp _ hl ht => exact h.skipTrailer (active_of_transferring hp) hhigh (h.classifiable hl) ht
  | asksTransfer hp hb hl ht => exact h.setPend (active_of_transferring hp) hb (h.classifiable hl) ht
  | authGranted hp => exact h.openSector (active_of_authenticating hp)
  | authRefused hp => exact h.failWalk (active_of_authenticating hp) 1 rfl
  | acked hp hpend => exact h.ack hhigh hp hpend
  | failed c hc hp => exact h.failWalk hp c hc

end

/-- The invariant in the machine is kept where the record keeps it and the parameters stay. -/
theorem State.UnitOk.of_unitInv {s t : State} (h : s.UnitOk) (hparams : t.params = s.params)
    (hunit : UnitInv s.params.lastBlock t.unit) : t.UnitOk :=
  ⟨by rw [hparams]; exact h.legal, by rw [hparams]; exact hunit⟩

theorem State.UnitOk.of_move {s t : State} {i : Instr} {u : UnitState} {r : Response} (h : s.UnitOk)
    (hmove : CommandMove s.params.lastBlock s.unit i u r) (hparams : t.params = s.params) (hunit : t.unit = u) :
    t.UnitOk :=
  h.of_unitInv hparams (hunit ▸ hmove.keeps_unitInv h.legal.1 h.legal.2 h.unit)

/-- Settles O42: every move of a command keeps the invariant. -/
theorem commandsKeepTheUnitInvariant : Obligations.CommandsKeepTheUnitInvariant := by
  intro i s t hs h
  obtain ⟨u, r, hmove, rfl⟩ := exec_next h
  exact hs.of_move hmove rfl rfl

theorem UnitInv.reset (last : BitVec 8) : UnitInv last .reset where
  atSectorStart h := nomatch h
  pendLegal h := nomatch h
  wholeBlocks := ⟨rfl, rfl⟩
  withinBudget _ := Nat.le_refl 0
  errIffFailed := ⟨iff_of_false (fun h => h rfl) nofun, fun _ => rfl, by decide⟩
  errblkIsCursor h := nomatch h
  cursorRange h := absurd rfl h
  counterTiedToCursor h := absurd rfl h
  modeLegal := by decide
  notStarted _ := rfl

/-- Settles O41: the reset record meets the invariant for every `LAST_BLOCK`, and nothing has been called. -/
theorem resetMeetsTheInvariants : Obligations.ResetMeetsTheInvariants := by
  have hok : State.reset.UnitOk := ⟨⟨by decide, by decide⟩, .reset _⟩
  exact ⟨hok, rfl, hok, nofun, trivial, nofun, trivial⟩

/-! ## The cursor and the counter (R21, R27) -/

/-- Settles O36: the two moves that raise the cursor, each from a block up to `LAST_BLOCK`. -/
theorem cursorMovesByOne : Obligations.CursorMovesByOne := by
  intro i s t hs h
  obtain ⟨u, r, hmove, rfl⟩ := exec_next h
  have rises (hl : s.unit.bidx.toNat ≤ s.params.lastBlock.toNat) :
      (s.unit.bidx + 1).toNat = s.unit.bidx.toNat + 1 ∧
        (s.unit.bidx + 1).toNat ≤ s.params.lastBlock.toNat + 1 := by
    have hnext := cursor_succ_toNat (hl.trans hs.legal.2)
    exact ⟨hnext, by omega⟩
  cases hmove with
  | started m k => exact .inr (.inl ⟨⟨m, k, rfl⟩, rfl⟩)
  | skipsTrailer _ _ hl ht => exact .inr (.inr ⟨.inl ⟨rfl, ht⟩, rises (hs.unit.classifiable hl)⟩)
  | acked _ hpend =>
    obtain ⟨-, hl, -⟩ := hs.unit.pendLegal hpend
    exact .inr (.inr ⟨.inr rfl, rises hl⟩)
  | _ => exact .inl rfl

/-- Settles O37: the one move that raises the counter, from at most 704. -/
theorem counterRisesOnlyByAck : Obligations.CounterRisesOnlyByAck := by
  intro i s t hs h
  obtain ⟨u, r, hmove, rfl⟩ := exec_next h
  cases hmove with
  | started m k => exact .inr (.inl ⟨⟨m, k, rfl⟩, rfl⟩)
  | acked _ hpend =>
    have hadd := hs.unit.counter_add_toNat hs.legal.2 hpend
    have hcnt := hs.unit.pending_counter hs.legal.2 hpend
    exact .inr (.inr ⟨rfl, hadd, show (s.unit.bcnt + 16).toNat ≤ 720 by omega⟩)
  | _ => exact .inl rfl

/-! ## The yields (R152, R159) -/

/-- The yield of a pending action, a function of the record (R24, R152). -/
def UnitState.pendingYield (u : UnitState) : Response :=
  ⟨0, packYield u.bidx (u.phase == .authenticating) false false false, u.bcnt.setWidth 32⟩

theorem UnitState.setPend_of_pend {u : UnitState} (h : u.pend = true) : { u with pend := true } = u := by
  cases u
  cases h
  rfl

/-- With a yield pending `WNEXT` gives it again and writes nothing. -/
theorem wnext_pending_answers (s : State) (hs : s.UnitOk) (hpend : s.unit.pend = true) :
    Answers .wnext s s.unit s.unit.pendingYield := by
  obtain ⟨hp, hl, ht, hb, -⟩ := hs.unit.pendLegal hpend
  have hsame := UnitState.setPend_of_pend hpend
  rw [Answers, wnext_classifies s hp hb hl]
  by_cases ha : s.unit.phase = .authenticating
  · rw [classifyNext_authenticating s ha, hsame, UnitState.pendingYield, ha]
    rfl
  · rw [classifyNext_data s (Phase.transferring_of_active hp ha) ht, hsame, UnitState.pendingYield,
      beq_false_of_ne ha]
    rfl

/-- Settles O39: the record, and with it the yield, is the same at the second `WNEXT`. -/
theorem pendingYieldRepeats : Obligations.PendingYieldRepeats := by
  intro s t hs hpend h
  rw [(wnext_pending_answers s hs hpend).eq_of_next h]
  exact ⟨rfl, wnext_pending_answers _ ⟨hs.legal, hs.unit⟩ hpend⟩

/-- In `Transferring` a block that is no trailer has the index of its number in walk order (R159). -/
theorem UnitInv.cursor_eq_dataBlockIndex {last : BitVec 8} {u : UnitState} (h : UnitInv last u)
    (hp : u.phase.active = true) (ht : u.bidx.toNat % 4 ≠ 3) :
    u.bidx.toNat = dataBlockIndex (u.bcnt.toNat / 16) := by
  have hlow := (h.cursor_of_active hp).1
  have hcnt := h.counter_eq hp
  have hlt := Nat.mod_lt u.bidx.toNat (show 4 > 0 by decide)
  unfold dataBlockIndex
  omega

/-- The yield of a transfer is the only one with status 0 and none of the flags `A`, `S` and `D` (R99, R152). -/
theorem wnext_data_yield {last : BitVec 8} {u u' : UnitState} {r : Response}
    (hmove : CommandMove last u .wnext u' r) (hst : r.st = 0) (ha : r.flagA = false) (hsk : r.flagS = false)
    (hd : r.flagD = false) :
    u.phase = .transferring ∧ u.Classifiable last ∧ u.bidx.toNat % 4 ≠ 3 ∧ r.blk = u.bidx ∧ r.offset = u.bcnt := by
  have fields := packYield_fields 0 u.bidx
  cases hmove with
  | pure _ _ hi => cases hi
  | illegal _ hi => cases hi
  | outOfOrder => cases hst
  | budgetReached =>
    obtain ⟨-, -, -, hflag, -⟩ := fields false false true false (u.bcnt.setWidth 32)
    exact absurd (hflag.symm.trans hd) (by decide)
  | formatEnded =>
    obtain ⟨-, -, -, hflag, -⟩ := fields false false true true (u.bcnt.setWidth 32)
    exact absurd (hflag.symm.trans hd) (by decide)
  | mediumEnded e _ _ _ he => rcases he with ⟨-, rfl⟩ | ⟨-, rfl⟩ <;> cases hst
  | asksAuth =>
    obtain ⟨-, hflag, -⟩ := fields true false false false (u.bcnt.setWidth 32)
    exact absurd (hflag.symm.trans ha) (by decide)
  | skipsTrailer =>
    obtain ⟨-, -, hflag, -⟩ := fields false true false false (u.bcnt.setWidth 32)
    exact absurd (hflag.symm.trans hsk) (by decide)
  | asksTransfer hp _ hl ht =>
    exact ⟨hp, hl, ht, (fields false false false false (u.bcnt.setWidth 32)).1, offset_of_counter 0 _ u.bcnt⟩

/-- Settles O40: a data yield is under the cursor in `Transferring`, and the invariant ties cursor and counter. -/
theorem dataYieldsNameDataBlocks : Obligations.DataYieldsNameDataBlocks := by
  intro s t r hs h hr hst ha hsk hd
  obtain ⟨u, hmove, rfl⟩ := exec_next_rsp h hr
  obtain ⟨hp, hcl, ht, hblk, hoff⟩ := wnext_data_yield hmove hst ha hsk hd
  have hactive := active_of_transferring hp
  have hl := hs.unit.classifiable hcl
  have hlow := (hs.unit.cursor_of_active hactive).1
  rw [hblk, hoff]
  exact ⟨⟨hlow, hl.trans hs.legal.2, ht⟩, hl, hp, hs.unit.cursor_eq_dataBlockIndex hactive ht,
    hs.unit.wholeBlocks.1⟩

end Sys2Proof.Machine
end

section
/-! SUPPORT. One step of the machine, said once: it does one thing to the unit or the reader and then only books where
the sequencer and the host stand (`step_effect`). What every step keeps follows from it; so do the single steps of the
host and of the sequencer that the spec describes (00_scope.md R16, 20_memory.md R56 to R60, 44_walker_sequences.md R182
to R185, 70_reset_and_hazards.md R240 to R243). -/

namespace Sys2Proof.Machine

/-! ## Commands that the sequencer issues (R94) -/

theorem issue_of_answers {i : Instr} {s : State} {u : UnitState} {r : Response} (h : Answers i s u r)
    (k : Response → State → Outcome) : issue i s k = k r { s with unit := u, rsps := r :: s.rsps } :=
  issue_next i s _ k h

/-- A command that is issued makes its move, and its response goes to what follows. -/
theorem issue_inv {i : Instr} {s t : State} {k : Response → State → Outcome} (h : issue i s k = .next t) :
    ∃ u r, CommandMove s.params.lastBlock s.unit i u r ∧
      k r { s with unit := u, rsps := r :: s.rsps } = .next t := by
  obtain ⟨u, r, hmove, hans⟩ := exec_moves i s
  exact ⟨u, r, hmove, (issue_of_answers hans k).symm.trans h⟩

/-! ## Calls that have returned (R58 to R60) -/

/-- The next answer of the reader: what is left of its inputs, and the medium when it answers (R68; log 3, log 5). -/
def Answered (s : State) (blk : BitVec 8) (ans : Answer) (rest : List ReaderInput) (m : Memory) : Prop :=
  blk.toNat ≤ 63 ∧ takeAnswer s.reader s.medium = some (ans, rest, m)

theorem Answered.inRange {s : State} {blk : BitVec 8} {ans : Answer} {rest : List ReaderInput} {m : Memory}
    (h : Answered s blk ans rest m) : blk.toNat ≤ 63 := h.1

theorem Answered.taken {s : State} {blk : BitVec 8} {ans : Answer} {rest : List ReaderInput} {m : Memory}
    (h : Answered s blk ans rest m) : takeAnswer s.reader s.medium = some (ans, rest, m) := h.2

theorem callReader_inv {blk : BitVec 8} {s t : State} {k : Answer → State → Outcome}
    (h : callReader blk s k = .next t) :
    t = s ∨ ∃ ans rest m, Answered s blk ans rest m ∧ k ans { s with reader := rest, medium := m } = .next t := by
  rcases callReader_cases blk s k with ⟨-, hc⟩ | ⟨-, -, hc⟩ | ⟨ans, rest, m, hblk, htake, hc⟩
  · rw [hc] at h
    cases h
  · rw [hc] at h
    cases h
    exact .inl rfl
  · exact .inr ⟨ans, rest, m, ⟨hblk, htake⟩, hc.symm.trans h⟩

/-- The machine after an `Auth` that was answered (R58). -/
def State.afterAuth (s : State) (h : CardHandle) (blk : BitVec 8) (ans : Answer) (rest : List ReaderInput)
    (m : Memory) : State :=
  { s with
    reader := rest, medium := m
    calls := .auth h blk s.params.keyType s.params.defaultKey ans.ok :: s.calls }

/-- The machine after a `MemRead` that was answered (R59). -/
def State.afterRead (s : State) (blk : BitVec 8) (ans : Answer) (rest : List ReaderInput) (m : Memory) : State :=
  { s with reader := rest, medium := m, calls := .read blk (readAnswer m blk ans) :: s.calls }

/-- The machine after a `MemWrite` that was answered (R56, R60). -/
def State.afterWrite (s : State) (blk : BitVec 8) (data : Block) (ans : Answer) (rest : List ReaderInput)
    (m : Memory) : State :=
  { s with
    reader := rest, medium := writeBlock m blk.toNat (writeLeaves data ans)
    calls := .write blk data ans.ok :: s.calls }

@[simp] theorem State.afterWrite_medium (s : State) (blk : BitVec 8) (data : Block) (ans : Answer)
    (rest : List ReaderInput) (m : Memory) :
    (s.afterWrite blk data ans rest m).medium = writeBlock m blk.toNat (writeLeaves data ans) := by
  rw [State.afterWrite]

@[simp] theorem State.afterWrite_unit (s : State) (blk : BitVec 8) (data : Block) (ans : Answer)
    (rest : List ReaderInput) (m : Memory) : (s.afterWrite blk data ans rest m).unit = s.unit := by
  rw [State.afterWrite]

theorem authCall_inv {h : CardHandle} {blk : BitVec 8} {s t : State} {k : Bool → State → Outcome}
    (hc : authCall h blk s k = .next t) :
    t = s ∨ ∃ ans rest m, Answered s blk ans rest m ∧ k ans.ok (s.afterAuth h blk ans rest m) = .next t :=
  callReader_inv hc

theorem readCall_inv {blk : BitVec 8} {s t : State} {k : Option Block → State → Outcome}
    (hc : readCall blk s k = .next t) :
    t = s ∨ ∃ ans rest m, Answered s blk ans rest m ∧
      k (readAnswer m blk ans) (s.afterRead blk ans rest m) = .next t :=
  callReader_inv hc

theorem writeCall_inv {blk : BitVec 8} {data : Block} {s t : State} {k : Bool → State → Outcome}
    (h : writeCall blk data s k = .next t) :
    t = s ∨ ∃ ans rest m, Answered s blk ans rest m ∧
      k ans.ok (s.afterWrite blk data ans rest m) = .next t := by
  rcases writeCall_cases blk data s k with ⟨-, hc⟩ | ⟨-, -, hc⟩ | ⟨ans, rest, m, hblk, htake, hc⟩
  · rw [hc] at h
    cases h
  · rw [hc] at h
    cases h
    exact .inl rfl
  · exact .inr ⟨ans, rest, m, ⟨hblk, htake⟩, hc.symm.trans h⟩

theorem callReader_answered {blk : BitVec 8} {s : State} {ans : Answer} {rest : List ReaderInput} {m : Memory}
    (ha : Answered s blk ans rest m) (k : Answer → State → Outcome) :
    callReader blk s k = k ans { s with reader := rest, medium := m } := by
  have hin : ¬Config.numBlocks ≤ blk.toNat := Nat.not_le.2 (Nat.lt_succ_of_le ha.inRange)
  rw [callReader, if_neg hin, ha.taken]

theorem authCall_answered {h : CardHandle} {blk : BitVec 8} {s : State} {ans : Answer} {rest : List ReaderInput}
    {m : Memory} (ha : Answered s blk ans rest m) (k : Bool → State → Outcome) :
    authCall h blk s k = k ans.ok (s.afterAuth h blk ans rest m) :=
  callReader_answered ha _

theorem readCall_answered {blk : BitVec 8} {s : State} {ans : Answer} {rest : List ReaderInput} {m : Memory}
    (ha : Answered s blk ans rest m) (k : Option Block → State → Outcome) :
    readCall blk s k = k (readAnswer m blk ans) (s.afterRead blk ans rest m) :=
  callReader_answered ha _

theorem writeCall_answered {blk : BitVec 8} {data : Block} {s : State} {ans : Answer} {rest : List ReaderInput}
    {m : Memory} (ha : Answered s blk ans rest m) (k : Bool → State → Outcome) :
    writeCall blk data s k = k ans.ok (s.afterWrite blk data ans rest m) := by
  rw [writeCall, callReader_answered ha, State.log, State.afterWrite]

theorem Answered.of_grant {s : State} {blk : BitVec 8} {more : List ReaderInput} (hblk : blk.toNat ≤ 63)
    (hr : s.reader = .grant :: more) : Answered s blk .granted more s.medium := ⟨hblk, by rw [hr]; rfl⟩

theorem Answered.of_deny {s : State} {blk : BitVec 8} {left : Block} {more : List ReaderInput}
    (hblk : blk.toNat ≤ 63) (hr : s.reader = .deny left :: more) :
    Answered s blk (.denied left) more s.medium := ⟨hblk, by rw [hr]; rfl⟩

/-! ## What one step does -/

/-- What a step does to the unit, the reader and the medium. -/
inductive Effect (s : State) : State → Prop
  /-- nothing -/
  | nothing : Effect s s
  /-- a reset (R240, R241) -/
  | reset : Effect s s.takeReset
  /-- a command of the unit -/
  | command (i : Instr) (u : UnitState) (r : Response) (hmove : CommandMove s.params.lastBlock s.unit i u r) :
    Effect s { s with unit := u, rsps := r :: s.rsps }
  /-- a command word that is none (R100) -/
  | illegalWord : Effect s (s.raise .illegalCommand)
  /-- an `Auth` -/
  | auth (h : CardHandle) (blk : BitVec 8) (ans : Answer) (rest : List ReaderInput) (m : Memory)
    (ha : Answered s blk ans rest m) : Effect s (s.afterAuth h blk ans rest m)
  /-- a `MemRead` -/
  | read (blk : BitVec 8) (ans : Answer) (rest : List ReaderInput) (m : Memory)
    (ha : Answered s blk ans rest m) : Effect s (s.afterRead blk ans rest m)
  /-- a `MemWrite` -/
  | write (blk : BitVec 8) (data : Block) (ans : Answer) (rest : List ReaderInput) (m : Memory)
    (ha : Answered s blk ans rest m) : Effect s (s.afterWrite blk data ans rest m)

/-- `t` is `s` but for where the sequencer stands, the results, and host entries taken off. -/
def Booked (s t : State) : Prop :=
  ∃ hs q rs, hs <:+ s.host ∧ t = { s with host := hs, seq := q, results := rs }

theorem Booked.refl (s : State) : Booked s s := ⟨_, _, _, List.suffix_rfl, rfl⟩
theorem Booked.goto (s : State) (q : Seq) : Booked s (s.goto q) := ⟨_, _, _, List.suffix_rfl, rfl⟩
theorem Booked.finish (s : State) (r : OpResult) : Booked s (s.finish r) := ⟨_, _, _, List.suffix_rfl, rfl⟩
theorem Booked.served {s : State} {a : HostAct} {rest : List HostAct} (h : s.host = a :: rest) :
    Booked s (s.served rest) := ⟨_, _, _, h ▸ List.suffix_cons a rest, rfl⟩

/-- An outcome that is a next state only books. -/
def OnlyBooks (s : State) (o : Outcome) : Prop := ∀ t, o = .next t → Booked s t

theorem OnlyBooks.of_next {s t : State} (h : Booked s t) : OnlyBooks s (.next t) := by
  rintro _ ⟨⟩
  exact h

/-- A step is an effect and what is booked after it. -/
def StepsTo (s t : State) : Prop := ∃ s', Effect s s' ∧ Booked s' t

theorem StepsTo.of_booked {s t : State} (h : Booked s t) : StepsTo s t := ⟨s, .nothing, h⟩

theorem stepsTo_of_issue {i : Instr} {s t : State} {k : Response → State → Outcome}
    (hk : ∀ r s', OnlyBooks s' (k r s')) (h : issue i s k = .next t) : StepsTo s t := by
  obtain ⟨u, r, hmove, hnext⟩ := issue_inv h
  exact ⟨_, .command i u r hmove, hk _ _ _ hnext⟩

theorem stepsTo_of_auth {h : CardHandle} {blk : BitVec 8} {s t : State} {k : Bool → State → Outcome}
    (hk : ∀ ok s', s'.host = s.host → OnlyBooks s' (k ok s')) (hc : authCall h blk s k = .next t) : StepsTo s t := by
  rcases authCall_inv hc with rfl | ⟨ans, rest, m, ha, hnext⟩
  · exact .of_booked (.refl _)
  · exact ⟨_, .auth h blk ans rest m ha, hk _ (s.afterAuth h blk ans rest m) rfl _ hnext⟩

theorem stepsTo_of_read {blk : BitVec 8} {s t : State} {k : Option Block → State → Outcome}
    (hk : ∀ b s', s'.host = s.host → OnlyBooks s' (k b s')) (hc : readCall blk s k = .next t) : StepsTo s t := by
  rcases readCall_inv hc with rfl | ⟨ans, rest, m, ha, hnext⟩
  · exact .of_booked (.refl _)
  · exact ⟨_, .read blk ans rest m ha, hk _ (s.afterRead blk ans rest m) rfl _ hnext⟩

theorem stepsTo_of_write {blk : BitVec 8} {data : Block} {s t : State} {k : Bool → State → Outcome}
    (hk : ∀ ok s', s'.host = s.host → OnlyBooks s' (k ok s')) (hc : writeCall blk data s k = .next t) :
    StepsTo s t := by
  rcases writeCall_inv hc with rfl | ⟨ans, rest, m, ha, hnext⟩
  · exact .of_booked (.refl _)
  · exact ⟨_, .write blk data ans rest m ha, hk _ (s.afterWrite blk data ans rest m) rfl _ hnext⟩

theorem onYield_onlyBooks (w : Walk) (y : Response) (s : State) : OnlyBooks s (onYield w y s) := by
  unfold onYield
  repeat' split
  · exact .of_next (.finish _ _)
  · exact .of_next (.finish _ _)
  · exact .of_next (.goto _ _)
  · exact .of_next (.goto _ _)
  · exact .of_next (.goto _ _)

theorem onWritten_onlyBooks (w : Walk) (blk : BitVec 8) (ok : Bool) (s : State) :
    OnlyBooks s (onWritten w blk ok s) := by
  cases ok with
  | true => exact .of_next (.goto _ _)
  | false => exact .of_next (.goto _ _)

theorem seqWalkData_stepsTo {w : Walk} {blk : BitVec 8} {off : BitVec 17} {s t : State}
    (h : seqWalkData w blk off s = .next t) : StepsTo s t := by
  unfold seqWalkData at h
  split at h
  · refine stepsTo_of_read (fun b s' _ => ?_) h
    cases b with
    | some b => exact .of_next (.goto _ _)
    | none => exact .of_next (.goto _ _)
  · exact stepsTo_of_write (fun ok s' _ => onWritten_onlyBooks w blk ok s') h
  · exact stepsTo_of_write (fun ok s' _ => onWritten_onlyBooks w blk ok s') h

/-- A response or an answer that decides between going on and ending the operation. -/
theorem OnlyBooks.ite {s : State} {c : Prop} [Decidable c] {o o' : Outcome} (h : OnlyBooks s o)
    (h' : OnlyBooks s o') : OnlyBooks s (if c then o else o') := by
  split
  · exact h
  · exact h'

theorem seqStep_stepsTo {s t : State} (h : seqStep s = .next t) : StepsTo s t := by
  unfold seqStep at h
  split at h
  next => cases h; exact .of_booked (.refl s)
  next => exact stepsTo_of_auth (fun ok s' _ => .ite (.of_next (.goto _ _)) (.of_next (.finish _ _))) h
  next =>
    refine stepsTo_of_read (fun b s' _ => ?_) h
    cases b with
    | some b => exact .of_next (.goto _ _)
    | none => exact .of_next (.finish _ _)
  next => exact stepsTo_of_issue (fun r s' => .ite (.of_next (.finish _ _)) (.of_next (.goto _ _))) h
  next => exact stepsTo_of_issue (fun r s' => .ite (.of_next (.finish _ _)) (.of_next (.goto _ _))) h
  next => exact stepsTo_of_issue (fun r s' => .of_next (.goto _ _)) h
  next => exact stepsTo_of_issue (fun r s' => .of_next (.goto _ _)) h
  next => exact stepsTo_of_issue (fun r s' => .of_next (.goto _ _)) h
  next w _ => exact stepsTo_of_issue (fun r s' => onYield_onlyBooks w r s') h
  next => exact stepsTo_of_auth (fun ok s' _ => .of_next (.goto _ _)) h
  next => exact stepsTo_of_issue (fun r s' => .ite (.of_next (.goto _ _)) (.of_next (.finish _ _))) h
  next => exact seqWalkData_stepsTo h
  next => exact stepsTo_of_issue (fun r s' => .ite (.of_next (.goto _ _)) (.of_next (.goto _ _))) h
  next => exact stepsTo_of_issue (fun r s' => .of_next (.goto _ _)) h
  next => exact stepsTo_of_issue (fun r s' => .of_next (.finish _ _)) h
  next => exact stepsTo_of_issue (fun r s' => .of_next (.finish _ _)) h

theorem Booked.trans {s s' s'' : State} (h : Booked s s') (h' : Booked s' s'') : Booked s s'' := by
  obtain ⟨hs, q, rs, hsuf, rfl⟩ := h
  obtain ⟨hs', q', rs', hsuf', rfl⟩ := h'
  exact ⟨hs', q', rs', hsuf'.trans hsuf, rfl⟩

/-- A command runs as if the host's entry had been taken off after it. -/
theorem runCommand_served_stepsTo {cw : CmdWord} {blk : Block} {rest : List HostAct} {s t : State}
    (hs : rest <:+ s.host) (h : runCommand cw blk (s.served rest) = .next t) : StepsTo s t := by
  unfold runCommand at h
  split at h
  · obtain ⟨u, r, hmove, rfl⟩ := exec_next h
    exact ⟨_, .command _ u r hmove, rest, s.seq, s.results, hs, rfl⟩
  · cases h
    exact ⟨_, .illegalWord, rest, s.seq, s.results, hs, rfl⟩

theorem beginWrite_onlyBooks (h : CardHandle) (p : List Byte) (s : State) : OnlyBooks s (beginWrite h p s) :=
  .ite (fun _ hne => nomatch hne) (.of_next (.goto _ _))

theorem beginWriteUri_onlyBooks (h : CardHandle) (text : String) (s : State) :
    OnlyBooks s (beginWriteUri h text s) := by
  unfold beginWriteUri
  split
  · exact beginWrite_onlyBooks _ _ _
  · exact .of_next (.finish _ _)

theorem hostAct_stepsTo {a : HostAct} {rest : List HostAct} {s t : State} (hhost : s.host = a :: rest)
    (h : hostAct a rest s = .next t) : StepsTo s t := by
  have hs : rest <:+ s.host := hhost ▸ List.suffix_cons a rest
  have booked := Booked.served hhost
  have serves (s' : State) (hs' : s'.host = s.host) : OnlyBooks s' (.next (s'.served rest)) :=
    .of_next (.served (hs'.trans hhost))
  cases a with
  | command cw blk => exact runCommand_served_stepsTo hs h
  | reset =>
    cases h
    exact ⟨_, .reset, rest, s.seq, s.results, hs, rfl⟩
  | auth hd blk => exact stepsTo_of_auth (fun _ => serves) h
  | read blk => exact stepsTo_of_read (fun _ => serves) h
  | write blk data => exact stepsTo_of_write (fun _ => serves) h
  | readFrame hd | formatCard hd | readUri hd | format hd =>
    cases h
    exact .of_booked (booked.trans (.goto _ _))
  | writeFrame hd p => exact .of_booked (booked.trans (beginWrite_onlyBooks hd p _ t h))
  | writeUri hd text => exact .of_booked (booked.trans (beginWriteUri_onlyBooks hd text _ t h))

/-- Every step that answers a next state is one effect and what is booked after it. -/
theorem step_effect {s t : State} (h : step s = .next t) : StepsTo s t := by
  unfold step at h
  split at h
  · cases h
    exact ⟨_, .reset, .refl _⟩
  split at h
  · unfold hostStep at h
    split at h
    · cases h
      exact .of_booked (.refl s)
    · next hhost => exact hostAct_stepsTo hhost h
  · exact seqStep_stepsTo h

/-! ## What every step keeps -/

theorem Effect.params_eq {s t : State} (h : Effect s t) : t.params = s.params := by
  cases h <;> rfl

theorem Effect.host_eq {s t : State} (h : Effect s t) : t.host = s.host := by
  cases h <;> rfl

theorem Effect.keeps_unitOk {s t : State} (h : Effect s t) (hs : s.UnitOk) : t.UnitOk := by
  cases h with
  | command i u r hmove => exact hs.of_move hmove rfl rfl
  | reset => exact ⟨hs.legal, .reset _⟩
  | _ => exact hs.of_unitInv rfl hs.unit

/-- The medium changes by what the reader's side does and by the block of a `MemWrite` (R56, R60; log 5). -/
theorem Effect.keeps_canonical {s t : State} (h : Effect s t) (hs : Memory.wf s.medium = true) :
    Memory.wf t.medium = true := by
  cases h with
  | nothing | reset | command | illegalWord => exact hs
  | auth _ _ _ _ _ ha | read _ _ _ _ ha => exact takeAnswer_wf _ _ hs _ _ _ ha.taken
  | write _ _ _ _ m ha =>
    have hm : Memory.wf m = true := takeAnswer_wf _ _ hs _ _ _ ha.taken
    rw [State.afterWrite_medium]
    exact writeBlock_wf m _ _ hm (Nat.lt_succ_of_le ha.inRange)

theorem Effect.keeps_rst {s t : State} (h : Effect s t) (hs : s.rst = false) : t.rst = false := by
  cases h with
  | reset => rfl
  | _ => exact hs

/-- Exclusive access stays exclusive (R62). -/
theorem Effect.keeps_quiet {s t : State} (h : Effect s t) (hs : quietReader s.reader) : quietReader t.reader := by
  cases h with
  | nothing | reset | command | illegalWord => exact hs
  | auth _ _ _ _ _ ha | read _ _ _ _ ha | write _ _ _ _ _ ha => exact (takeAnswer_quiet _ _ hs _ _ _ ha.taken).2

theorem StepsTo.keeps_unitOk {s t : State} (h : StepsTo s t) (hs : s.UnitOk) : t.UnitOk := by
  obtain ⟨s', heff, hs', q, rs, -, rfl⟩ := h
  obtain ⟨hlegal, hunit⟩ := heff.keeps_unitOk hs
  exact ⟨hlegal, hunit⟩

theorem StepsTo.host_suffix {s t : State} (h : StepsTo s t) : t.host <:+ s.host := by
  obtain ⟨s', heff, hs', q, rs, hsuf, rfl⟩ := h
  exact heff.host_eq ▸ hsuf

theorem StepsTo.keeps_alone {s t : State} (h : StepsTo s t) (hhost : s.host = []) : t.host = [] :=
  List.suffix_nil.1 (hhost ▸ h.host_suffix)

theorem StepsTo.keeps_canonical {s t : State} (h : StepsTo s t) (hs : Memory.wf s.medium = true) :
    Memory.wf t.medium = true := by
  obtain ⟨s', heff, hs', q, rs, -, rfl⟩ := h
  exact heff.keeps_canonical hs

theorem StepsTo.keeps_rst {s t : State} (h : StepsTo s t) (hs : s.rst = false) : t.rst = false := by
  obtain ⟨s', heff, hs', q, rs, -, rfl⟩ := h
  exact heff.keeps_rst hs

theorem StepsTo.keeps_quiet {s t : State} (h : StepsTo s t) (hs : quietReader s.reader) : quietReader t.reader := by
  obtain ⟨s', heff, hs', q, rs, -, rfl⟩ := h
  exact heff.keeps_quiet hs

/-- Settles O43: an effect keeps the invariant of the unit, and what is booked does not touch it. -/
theorem stepsKeepTheUnitInvariant : Obligations.StepsKeepTheUnitInvariant := fun _ _ hs h =>
  (step_effect h).keeps_unitOk hs

/-- Settles O44: no effect writes a parameter. -/
theorem parametersNeverChange : Obligations.ParametersNeverChange := by
  intro s t h
  obtain ⟨s', heff, hs', q, rs, -, rfl⟩ := step_effect h
  exact heff.params_eq

/-- Settles O51: every effect on the medium keeps the form. -/
theorem stepsKeepTheMediumCanonical : Obligations.StepsKeepTheMediumCanonical := fun _ _ hs h =>
  (step_effect h).keeps_canonical hs

/-! ## Single steps of the host -/

/-- Settles O6: the command port. -/
theorem stepRunsTheDecodedCommand : Obligations.StepRunsTheDecodedCommand := by
  intro s cw blk rest i hport hdec
  rw [step_onPort s cw blk rest hport, runCommand, hdec]
  rfl

/-- Settles O7: an empty list of the host. -/
theorem waitsForTheFirstCommand : Obligations.WaitsForTheFirstCommand := by
  intro s hrst hseq hhost
  simp only [step, hrst, hseq, hostStep, hhost, Bool.false_eq_true, if_false, if_true]

theorem step_of_rst (s : State) (h : s.rst = true) : step s = .next s.takeReset := if_pos h

/-- Settles O45: the reset record, on the input and as an entry of the host. -/
theorem resetRestoresTheUnit : Obligations.ResetRestoresTheUnit := by
  refine ⟨.reset, ⟨rfl, rfl, rfl, rfl, rfl, rfl, rfl, rfl⟩, step_of_rst, fun s rest hrst hseq hhost => ?_⟩
  rw [step_takesHostAct s _ rest hrst hseq hhost, hostAct, State.takeReset, ← hrst]
  rfl

/-- A primitive at an index above 63 faults (log 16). -/
theorem callReader_outside (blk : BitVec 8) (s : State) (k : Answer → State → Outcome) (h : 63 < blk.toNat) :
    callReader blk s k = .fault (.noSuchBlock blk) :=
  if_pos (show 64 ≤ blk.toNat from h)

/-- Settles O50: each of the three primitives. -/
theorem blocksOutsideTheMediumFault : Obligations.BlocksOutsideTheMediumFault := by
  intro s h blk data rest hrst hseq hblk hhost
  rcases hhost with hhost | hhost | hhost <;> rw [step_takesHostAct s _ rest hrst hseq hhost, hostAct]
  · rw [authCall, callReader_outside blk s _ hblk]
  · rw [readCall, callReader_outside blk s _ hblk]
  · rw [writeCall, callReader_outside blk s _ hblk]

/-- Settles O54: the bound on the payload. -/
theorem longPayloadsAreRefused : Obligations.LongPayloadsAreRefused := by
  intro s h p rest hrst hseq hhost
  have hstep := step_takesHostAct s (.writeFrame h p) rest hrst hseq hhost
  exact ⟨fun hlong => hstep.trans (beginWrite_refuses h p _ hlong),
    fun hfits => hstep.trans (beginWrite_encodes h p _ hfits)⟩

/-- Settles O49: the one call with both answers. -/
theorem authPassesTheDefaultKey : Obligations.AuthPassesTheDefaultKey := by
  intro s h blk rest more left hrst hseq hhost hblk
  have hstep := step_takesHostAct s _ rest hrst hseq hhost
  rw [hostAct] at hstep
  exact ⟨fun hr => hstep.trans (authCall_answered (.of_grant hblk hr) _),
    fun hr => hstep.trans (authCall_answered (.of_deny hblk hr) _)⟩

/-- Settles O48: the block that is read, and its bytes by address. -/
theorem memReadBringsTheBlock : Obligations.MemReadBringsTheBlock := by
  intro s blk rest more left hrst hseq hhost hblk
  have hstep := step_takesHostAct s _ rest hrst hseq hhost
  rw [hostAct] at hstep
  exact ⟨fun hr => ⟨readBlock s.medium blk.toNat, hstep.trans (readCall_answered (.of_grant hblk hr) _),
      blockByte_readBlock s.medium blk.toNat⟩,
    fun hr => hstep.trans (readCall_answered (.of_deny hblk hr) _)⟩

/-- A block write changes its own block only (R57). -/
theorem memByte_writeBlock_outside (m : Memory) (blk : Nat) (b : Block) (hm : Memory.wf m = true) (hblk : blk < 64)
    (a : Nat) (ha : a / 16 ≠ blk) : memByte (writeBlock m blk b) a = memByte m a := by
  rw [memByte_writeBlock m blk b hm hblk, if_neg ha]

/-- Settles O47: the medium after the write, granted and refused. -/
theorem memWriteChangesOneBlock : Obligations.MemWriteChangesOneBlock := by
  intro s blk data rest more hrst hseq hhost hblk hwf
  have hstep := step_takesHostAct s _ rest hrst hseq hhost
  rw [hostAct] at hstep
  have hlt : blk.toNat < 64 := Nat.lt_succ_of_le hblk
  refine ⟨fun hr => ⟨writeBlock s.medium blk.toNat data, ?_, readBlock_writeBlock_same _ _ data hwf hlt,
      memByte_writeBlock_outside _ _ data hwf hlt⟩,
    fun left hr => ⟨writeBlock s.medium blk.toNat left, ?_, readBlock_writeBlock_same _ _ left hwf hlt,
      memByte_writeBlock_outside _ _ left hwf hlt⟩⟩
  · rw [hstep, writeCall_answered (.of_grant hblk hr), State.served, State.afterWrite, writeLeaves, Answer.ok]
  · rw [hstep, writeCall_answered (.of_deny hblk hr), State.served, State.afterWrite, writeLeaves, Answer.ok]

/-! ## Single steps of the sequencer -/

/-- An operation in progress takes the step (R181). -/
theorem step_runsSeq (s : State) (hrst : s.rst = false) (hseq : s.seq ≠ .idle) : step s = seqStep s := by
  rw [step, hrst, if_neg Bool.false_ne_true, if_neg hseq]

theorem step_setupFfs {s : State} {h : CardHandle} {uri : Bool} {b : Block} (hrst : s.rst = false)
    (hseq : s.seq = .setupFfs h uri b) : step s = seqSetupFfs h uri b s := by
  rw [step_runsSeq s hrst (by rw [hseq]; nofun), seqStep, hseq]

theorem setupFfs_found {s : State} {h : CardHandle} {uri : Bool} {b : Block} {o : Nat}
    (hscan : scanFrameStart (blockBytes b) 0 = .ok o) :
    seqSetupFfs h uri b s =
      .next ((s.succeed (BitVec.ofNat 32 o) 0).goto (.setupDechdr h uri b (BitVec.ofNat 4 o))) := by
  rw [seqSetupFfs, issue_of_answers (ffs_answers_of_found b s o hscan), frameOffset_of_found]
  rfl

theorem setupFfs_failed {s : State} {h : CardHandle} {uri : Bool} {b : Block} {e : Status}
    (hscan : scanFrameStart (blockBytes b) 0 = .error e) :
    seqSetupFfs h uri b s = .next ((s.raise e).finish (.failed e.code none)) := by
  have hne : e.code ≠ 0 := by rcases scanFrameStart_error _ _ _ hscan with rfl | rfl <;> decide
  rw [seqSetupFfs, issue_of_answers (ffs_answers_of_error b s e hscan)]
  exact if_pos hne

/-- Whatever the scan finds, the unit, the medium and the calls stay as they are. -/
theorem setupFfs_frame (s : State) (h : CardHandle) (uri : Bool) (b : Block) :
    ∃ t, seqSetupFfs h uri b s = .next t ∧ t.unit = s.unit ∧ t.medium = s.medium ∧ t.calls = s.calls := by
  cases hscan : scanFrameStart (blockBytes b) 0 with
  | ok o => exact ⟨_, setupFfs_found hscan, rfl, rfl, rfl⟩
  | error e => exact ⟨_, setupFfs_failed hscan, rfl, rfl, rfl⟩

/-- Settles O52: the first byte that is not zero decides the scan, and the scan the step. -/
theorem readSetupReportsFramingErrors : Obligations.ReadSetupReportsFramingErrors := by
  intro s h uri b o hrst hseq ho hz
  obtain ⟨t, hrun, hunit, hmedium, hcalls⟩ := setupFfs_frame s h uri b
  refine ⟨t, (step_setupFfs hrst hseq).trans hrun, hunit, hmedium, hcalls, fun h3 => ?_, fun hn h3 => ?_,
    fun h15 h0 => ?_⟩
  · have hn : blockByte b o ≠ 0x00 := by rw [h3]; decide
    rw [setupFfs_found (by rw [scanFrameStart_block b o ho hz hn, if_pos h3])] at hrun
    cases hrun
    exact ⟨rfl, rfl⟩
  · rw [setupFfs_failed (by rw [scanFrameStart_block b o ho hz hn, if_neg h3])] at hrun
    cases hrun
    exact ⟨rfl, rfl⟩
  · have hzero : ∀ i, i < 16 → blockByte b i = 0x00 := fun i hi => by
      rcases Nat.lt_or_ge i o with hlt | hge
      · exact hz i hlt
      · rwa [show i = o by omega]
    rw [setupFfs_failed (scanFrameStart_zeroBlock b hzero)] at hrun
    cases hrun
    exact ⟨rfl, rfl⟩

/-- Before the first data block nothing has been filled. -/
theorem BlocksFilled.start (m : Memory) (job : Job) : BlocksFilled m m job 0 fun _ => False where
  new k hk := absurd hk (Nat.not_lt_zero k)
  old _ _ _ := rfl

/-- Settles O57: the header that `ENCHDR` answers makes the frame, and the number of chunks fits the budget. -/
theorem writeBeginsWithTheFrame : Obligations.WriteBeginsWithTheFrame := by
  intro s h p hrst hseq hmax
  have hcount : (BitVec.ofNat 13 (chunkCount p.length)).toNat = (frameChunks p).length := by
    rw [frameChunks_length, BitVec.toNat_ofNat, chunkCount, Config.blockSize]
    omega
  have hstep : step s = seqEncoding h p s := by
    rw [step_runsSeq s hrst (by rw [hseq]; nofun), seqStep, hseq]
  rw [seqEncoding, issue_of_answers (enchdr_answers _ s), header_of_headerBytes] at hstep
  exact ⟨_, _, hstep, rfl, hcount, rfl, rfl, rfl, fun chunks hj => by cases hj; exact hcount, .start _ _⟩

/-- `size` of a `BUFSZ` response loses nothing. -/
theorem size_of_bufsz (n : Arg) :
    (⟨0, BitVec.ofNat 32 (bufferSize n.toNat), 0⟩ : Response).size.toNat = bufferSize n.toNat := by
  have hsize := bufferSize_lt n.toNat
  have hlt := n.isLt
  rw [Response.size, field_toNat, bufferSizeWord_toNat]
  omega

/-- Settles O58: the size is a whole number of blocks that fits the budget. -/
theorem readBeginsWithTheBudget : Obligations.ReadBeginsWithTheBudget := by
  intro s h uri n start hrst hseq
  have hbudget : 16 * (BitVec.ofNat 13 (bufferSize n.toNat / 16)).toNat = bufferSize n.toNat := by
    have hsize := bufferSize_lt n.toNat
    have hmod := bufferSize_mod n.toNat
    have hlt := n.isLt
    rw [BitVec.toNat_ofNat]
    omega
  have hstep : step s = seqSizing h uri n start s := by
    rw [step_runsSeq s hrst (by rw [hseq]; nofun), seqStep, hseq]
  rw [seqSizing, issue_of_answers (bufsz_answers n s), size_of_bufsz] at hstep
  exact ⟨_, _, hstep, rfl, hbudget, rfl, rfl, rfl⟩

end Sys2Proof.Machine
end

section
/-! SUPPORT. Which blocks the reader is asked to touch (43_block_iterator.md R160, 70_reset_and_hazards.md R246, R258):
every call a walk makes is the one the unit asked for, in a sector that was authenticated, and no step faults. -/

namespace Sys2Proof.Machine

/-! ## What the loop does with each yield (R181) -/

section
variable (w : Walk) (b : BitVec 8) (c : BitVec 17) (t : State)

theorem onYield_done (e : Bool) :
    onYield w ⟨0, packYield b false false true e, c.setWidth 32⟩ t = .next (t.finish w.job.success) := by
  obtain ⟨-, -, -, hd, -⟩ := packYield_fields 0 b false false true e (c.setWidth 32)
  rw [onYield, hd]
  rfl

theorem onYield_auth :
    onYield w ⟨0, packYield b true false false false, c.setWidth 32⟩ t = .next (t.goto (.walkAuth w b)) := by
  obtain ⟨hblk, ha, -, hd, -⟩ := packYield_fields 0 b true false false false (c.setWidth 32)
  rw [onYield, hblk, ha, hd]
  rfl

theorem onYield_skip :
    onYield w ⟨0, packYield b false true false false, c.setWidth 32⟩ t = .next (t.goto (.walkNext w)) := by
  obtain ⟨-, ha, hsk, hd, -⟩ := packYield_fields 0 b false true false false (c.setWidth 32)
  rw [onYield, ha, hsk, hd]
  rfl

theorem onYield_data :
    onYield w ⟨0, packYield b false false false false, c.setWidth 32⟩ t = .next (t.goto (.walkData w b c)) := by
  obtain ⟨hblk, ha, hsk, hd, -⟩ := packYield_fields 0 b false false false false (c.setWidth 32)
  rw [onYield, hblk, ha, hsk, hd, offset_of_counter]
  rfl

/-- A block index in a response word is read back (R98). -/
theorem onYield_failed (st : BitVec 4) (hst : st ≠ 0) :
    onYield w ⟨st, b.setWidth 32, 0⟩ t = .next (t.finish (.failed st (some b))) := by
  have hblk : (⟨st, b.setWidth 32, 0⟩ : Response).blk = b := by
    have hlt := b.isLt
    rw [← BitVec.toNat_inj, Response.blk, field_toNat, BitVec.toNat_setWidth_of_le (by decide)]
    omega
  rw [onYield, hblk]
  exact if_pos hst

end

/-- The statuses of the end of the medium are not 0 (R211). -/
theorem Status.code_ne_zero_of_end {e : Status} {m : BitVec 2}
    (he : m = 0 ∧ e = .missingTerminator ∨ m = 1 ∧ e = .ioFailure) : e.code ≠ 0 := by
  rcases he with ⟨-, rfl⟩ | ⟨-, rfl⟩ <;> decide

/-! ## The calls made so far -/

/-- Every call so far touched only what it may touch, and only in an authenticated sector (R160). -/
structure CallHistory (calls : List ReaderCall) : Prop where
  legal : ∀ c ∈ calls, c.touchesDataOnly
  authenticated : transfersAuthenticated calls

theorem CallHistory.auth {calls : List ReaderCall} (hist : CallHistory calls) {h : CardHandle} {blk : BitVec 8}
    {kt : KeyType} {key : List Byte} {ok : Bool} (hblk : isSectorHead blk.toNat) :
    CallHistory (.auth h blk kt key ok :: calls) :=
  ⟨List.forall_mem_cons.2 ⟨hblk, hist.legal⟩, hist.authenticated⟩

theorem CallHistory.read {calls : List ReaderCall} (hist : CallHistory calls) {blk : BitVec 8} {b : Option Block}
    (hblk : isDataBlock blk.toNat) (hauth : authedSector calls = some (blk.toNat / 4)) :
    CallHistory (.read blk b :: calls) :=
  ⟨List.forall_mem_cons.2 ⟨hblk, hist.legal⟩, hauth, hist.authenticated⟩

theorem CallHistory.write {calls : List ReaderCall} (hist : CallHistory calls) {blk : BitVec 8} {data : Block}
    {ok : Bool} (hblk : isDataBlock blk.toNat) (hauth : authedSector calls = some (blk.toNat / 4)) :
    CallHistory (.write blk data ok :: calls) :=
  ⟨List.forall_mem_cons.2 ⟨hblk, hist.legal⟩, hauth, hist.authenticated⟩

/-- The calls so far were legal, and so is the one that the sequencer makes next. -/
structure State.CallsOk (s : State) : Prop where
  history : CallHistory s.calls
  next : s.seq.callLegal s.unit (authedSector s.calls)

theorem State.TransfersOk.callsOk {s : State} (h : s.TransfersOk) : s.CallsOk :=
  ⟨⟨h.callsLegal, h.callsAuthenticated⟩, h.seqLegal⟩

/-- The sector of the cursor is the authenticated one, while the walk transfers. -/
def CursorAuthed (u : UnitState) (auth : Option Nat) : Prop :=
  u.phase = .transferring → auth = some (u.bidx.toNat / 4)

/-! ## The sequencer, step by step -/

section
variable {s t : State}

theorem setupAuth_callsOk {h : CardHandle} {uri : Bool} (hist : CallHistory s.calls)
    (hc : s.CallsOk) (hstep : seqSetupAuth h uri s = .next t) : t.CallsOk := by
  rcases authCall_inv hstep with rfl | ⟨ans, rest, m, -, hk⟩
  · exact hc
  have hist' := hist.auth (h := h) (blk := 4) (kt := s.params.keyType) (key := s.params.defaultKey) (ok := ans.ok)
    (by decide)
  cases ans with
  | granted => cases hk; exact ⟨hist', rfl⟩
  | denied left => cases hk; exact ⟨hist', trivial⟩

theorem setupRead_callsOk {h : CardHandle} {uri : Bool} (hist : CallHistory s.calls)
    (hauth : authedSector s.calls = some 1) (hc : s.CallsOk) (hstep : seqSetupRead h uri s = .next t) :
    t.CallsOk := by
  rcases readCall_inv hstep with rfl | ⟨ans, rest, m, -, hk⟩
  · exact hc
  have hist' := hist.read (blk := 4) (b := readAnswer m 4 ans) (by decide) hauth
  cases ans with
  | granted => cases hk; exact ⟨hist', trivial⟩
  | denied left => cases hk; exact ⟨hist', trivial⟩

theorem setupFfs_callsOk {h : CardHandle} {uri : Bool} {b : Block} (hist : CallHistory s.calls)
    (hstep : seqSetupFfs h uri b s = .next t) : t.CallsOk := by
  obtain ⟨u, r, -, hk⟩ := issue_inv hstep
  split at hk <;> cases hk
  · exact ⟨hist, trivial⟩
  · exact ⟨hist, trivial⟩

theorem setupDechdr_callsOk {h : CardHandle} {uri : Bool} {b : Block} {o : BitVec 4} (hist : CallHistory s.calls)
    (hstep : seqSetupDechdr h uri b o s = .next t) : t.CallsOk := by
  obtain ⟨u, r, -, hk⟩ := issue_inv hstep
  split at hk <;> cases hk
  · exact ⟨hist, trivial⟩
  · exact ⟨hist, trivial⟩

/-- Every job has a legal mode (R25, R97). -/
theorem Job.mode_ne_three (job : Job) : job.mode ≠ 3 := by
  cases job <;> (rw [Job.mode]; decide)

theorem walkInit_callsOk {w : Walk} {nblk : BitVec 13} (hist : CallHistory s.calls)
    (hstep : seqWalkInit w nblk s = .next t) : t.CallsOk := by
  rw [seqWalkInit, issue_of_answers (winit_answers _ nblk s w.job.mode_ne_three)] at hstep
  cases hstep
  exact ⟨hist, nofun⟩

/-- What a yield of a unit in order leads to: the block it names is legal for the action it asks for. -/
theorem onYield_callsOk {w : Walk} {u : UnitState} {r : Response} (hs : s.UnitOk) (hist : CallHistory s.calls)
    (hauth : CursorAuthed s.unit (authedSector s.calls))
    (hmove : CommandMove s.params.lastBlock s.unit .wnext u r)
    (hk : onYield w r { s with unit := u, rsps := r :: s.rsps } = .next t) : t.CallsOk := by
  have hlast := hs.legal.2
  cases hmove with
  | pure _ _ hi => cases hi
  | illegal _ hi => cases hi
  | outOfOrder => cases hk; exact ⟨hist, trivial⟩
  | mediumEnded e _ _ _ he =>
    rw [onYield_failed _ _ _ _ (Status.code_ne_zero_of_end he)] at hk
    cases hk
    exact ⟨hist, trivial⟩
  | budgetReached | formatEnded =>
    rw [onYield_done] at hk
    cases hk
    exact ⟨hist, trivial⟩
  | asksAuth hp _ hl =>
    rw [onYield_auth] at hk
    cases hk
    have hcl := hs.unit.classifiable hl
    have hlow := (hs.unit.cursor_of_active (active_of_authenticating hp)).1
    refine ⟨hist, ⟨hlow, hcl.trans hlast, (hs.unit.atSectorStart hp).1⟩, ?_, fun _ => rfl⟩
    exact fun hq => absurd (hp.symm.trans hq) (by decide)
  | skipsTrailer =>
    rw [onYield_skip] at hk
    cases hk
    exact ⟨hist, nofun⟩
  | asksTransfer hp _ hl ht =>
    rw [onYield_data] at hk
    cases hk
    have hcl := hs.unit.classifiable hl
    have hlow := (hs.unit.cursor_of_active (active_of_transferring hp)).1
    exact ⟨hist, ⟨hlow, hcl.trans hlast, ht⟩, hauth hp, fun _ => hauth hp⟩

theorem walkNext_callsOk {w : Walk} (hs : s.UnitOk) (hist : CallHistory s.calls)
    (hauth : CursorAuthed s.unit (authedSector s.calls)) (hstep : seqWalkNext w s = .next t) : t.CallsOk := by
  obtain ⟨u, r, hmove, hk⟩ := issue_inv hstep
  exact onYield_callsOk hs hist hauth hmove hk

theorem walkAuth_callsOk {w : Walk} {blk : BitVec 8} (hist : CallHistory s.calls)
    (hblk : isSectorHead blk.toNat) (hp : s.unit.phase ≠ .transferring)
    (hcursor : s.unit.phase = .authenticating → s.unit.bidx = blk) (hc : s.CallsOk)
    (hstep : seqWalkAuth w blk s = .next t) : t.CallsOk := by
  rcases authCall_inv hstep with rfl | ⟨ans, rest, m, -, hk⟩
  · exact hc
  cases hk
  exact ⟨hist.auth hblk, hp, hcursor, fun hok => if_pos hok⟩

theorem walkTell_callsOk {w : Walk} {blk : BitVec 8} {ok : Bool} (hist : CallHistory s.calls)
    (hp : s.unit.phase ≠ .transferring) (hcursor : s.unit.phase = .authenticating → s.unit.bidx = blk)
    (hauth : ok = true → authedSector s.calls = some (blk.toNat / 4)) (hstep : seqWalkTell w blk ok s = .next t) :
    t.CallsOk := by
  obtain ⟨u, r, hmove, hk⟩ := issue_inv hstep
  cases ok with
  | false => cases hk; exact ⟨hist, trivial⟩
  | true =>
    cases hk
    refine ⟨hist, fun hq => ?_⟩
    rcases hmove.opens hq with hq' | ⟨-, ha, -, hbidx⟩
    · exact absurd hq' hp
    · show authedSector s.calls = some (u.bidx.toNat / 4)
      rw [hbidx, hcursor ha]
      exact hauth rfl

theorem onWritten_callsOk {w : Walk} {blk : BitVec 8} {ok : Bool} (hist : CallHistory s.calls)
    (hauth : CursorAuthed s.unit (authedSector s.calls)) (hk : onWritten w blk ok s = .next t) : t.CallsOk := by
  cases ok with
  | false => cases hk; exact ⟨hist, trivial⟩
  | true => cases hk; exact ⟨hist, hauth⟩

theorem walkData_callsOk {w : Walk} {blk : BitVec 8} {off : BitVec 17} (hist : CallHistory s.calls)
    (hblk : isDataBlock blk.toNat) (hauth : authedSector s.calls = some (blk.toNat / 4))
    (hcursor : CursorAuthed s.unit (authedSector s.calls)) (hc : s.CallsOk)
    (hstep : seqWalkData w blk off s = .next t) : t.CallsOk := by
  have written {data : Block} (h : writeCall blk data s (onWritten w blk) = .next t) : t.CallsOk := by
    rcases writeCall_inv h with rfl | ⟨ans, rest, m, -, hk⟩
    · exact hc
    · exact onWritten_callsOk (s := s.afterWrite blk data ans rest m) (hist.write hblk hauth) hcursor hk
  unfold seqWalkData at hstep
  split at hstep
  · rcases readCall_inv hstep with rfl | ⟨ans, rest, m, -, hk⟩
    · exact hc
    have hist' := hist.read (b := readAnswer m blk ans) hblk hauth
    cases ans with
    | granted => cases hk; exact ⟨hist', hcursor⟩
    | denied left => cases hk; exact ⟨hist', trivial⟩
  · exact written hstep
  · exact written hstep

theorem walkTerm_callsOk {w : Walk} {b : Block} (hist : CallHistory s.calls)
    (hcursor : CursorAuthed s.unit (authedSector s.calls)) (hstep : seqWalkTerm w b s = .next t) : t.CallsOk := by
  rw [seqWalkTerm, issue_of_answers (fterm_answers b s _ rfl)] at hstep
  split at hstep <;> cases hstep
  · exact ⟨hist, trivial⟩
  · exact ⟨hist, hcursor⟩

/-- An acknowledged block is no trailer, so that the next one is in the same sector. -/
theorem walkAck_callsOk {w : Walk} (hs : s.UnitOk) (hist : CallHistory s.calls)
    (hcursor : CursorAuthed s.unit (authedSector s.calls)) (hstep : seqWalkAck w s = .next t) : t.CallsOk := by
  obtain ⟨u, r, hmove, hk⟩ := issue_inv hstep
  cases hk
  refine ⟨hist, ?_⟩
  cases hmove with
  | pure | illegal | outOfOrder => exact hcursor
  | acked hp hpend =>
    obtain ⟨-, hl, ht, -, -⟩ := hs.unit.pendLegal hpend
    have hnext := cursor_succ_toNat (hl.trans hs.legal.2)
    intro _
    show authedSector s.calls = some ((s.unit.bidx + 1).toNat / 4)
    rw [hcursor hp, hnext]
    congr 1
    omega

theorem seqStep_callsOk (hs : s.UnitOk) (hc : s.CallsOk) (h : seqStep s = .next t) : t.CallsOk := by
  have ⟨hist, hnext⟩ := hc
  unfold seqStep at h
  split at h
  next => cases h; exact hc
  next => exact setupAuth_callsOk hist hc h
  next hq => rw [hq] at hnext; exact setupRead_callsOk hist hnext hc h
  next => exact setupFfs_callsOk hist h
  next => exact setupDechdr_callsOk hist h
  next => obtain ⟨u, r, -, hk⟩ := issue_inv h; cases hk; exact ⟨hist, trivial⟩
  next => obtain ⟨u, r, -, hk⟩ := issue_inv h; cases hk; exact ⟨hist, trivial⟩
  next => exact walkInit_callsOk hist h
  next hq => rw [hq] at hnext; exact walkNext_callsOk hs hist hnext h
  next hq =>
    rw [hq] at hnext
    obtain ⟨hblk, hp, hcursor⟩ := hnext
    exact walkAuth_callsOk hist hblk hp hcursor hc h
  next hq =>
    rw [hq] at hnext
    obtain ⟨hp, hcursor, hauth⟩ := hnext
    exact walkTell_callsOk hist hp hcursor hauth h
  next hq =>
    rw [hq] at hnext
    obtain ⟨hblk, hauth, hcursor⟩ := hnext
    exact walkData_callsOk hist hblk hauth hcursor hc h
  next hq => rw [hq] at hnext; exact walkTerm_callsOk hist hnext h
  next hq => rw [hq] at hnext; exact walkAck_callsOk hs hist hnext h
  next => obtain ⟨u, r, -, hk⟩ := issue_inv h; cases hk; exact ⟨hist, trivial⟩
  next => obtain ⟨u, r, -, hk⟩ := issue_inv h; cases hk; exact ⟨hist, trivial⟩

/-! ## The host and the reset -/

theorem runCommand_callsOk {cw : CmdWord} {blk : Block} (hist : CallHistory s.calls) (hidle : s.seq = .idle)
    (h : runCommand cw blk s = .next t) : t.CallsOk := by
  have legal (u : UnitState) (auth : Option Nat) : s.seq.callLegal u auth := by rw [hidle]; trivial
  unfold runCommand at h
  split at h
  · obtain ⟨u, r, -, rfl⟩ := exec_next h
    exact ⟨hist, legal _ _⟩
  · cases h
    exact ⟨hist, legal _ _⟩

theorem beginWrite_callsOk {h : CardHandle} {p : List Byte} (hist : CallHistory s.calls)
    (hk : beginWrite h p s = .next t) : t.CallsOk := by
  unfold beginWrite at hk
  split at hk
  · cases hk
  · cases hk; exact ⟨hist, trivial⟩

theorem beginWriteUri_callsOk {h : CardHandle} {text : String} (hist : CallHistory s.calls)
    (hk : beginWriteUri h text s = .next t) : t.CallsOk := by
  unfold beginWriteUri at hk
  split at hk
  · exact beginWrite_callsOk hist hk
  · cases hk; exact ⟨hist, trivial⟩

/-- No operation begins in the middle of a walk, and the host makes no call of its own (R160, R181). -/
theorem hostAct_callsOk {a : HostAct} {rest : List HostAct} (ha : a.keepsToYields = true)
    (hist : CallHistory s.calls) (hidle : s.seq = .idle) (h : hostAct a rest s = .next t) : t.CallsOk := by
  cases a with
  | command cw blk => exact runCommand_callsOk (s := s.served rest) hist hidle h
  | reset =>
    cases h
    refine ⟨hist, ?_⟩
    show s.seq.callLegal _ _
    rw [hidle]
    trivial
  | auth | read | write => cases ha
  | readFrame | formatCard | readUri | format => cases h; exact ⟨hist, trivial⟩
  | writeFrame hd p => exact beginWrite_callsOk (s := s.served rest) hist h
  | writeUri hd text => exact beginWriteUri_callsOk (s := s.served rest) hist h

/-- After a reset the walk is over, whatever the sequencer does next (R241; log 18). -/
theorem takeReset_callsOk (hc : s.CallsOk) : s.takeReset.CallsOk := by
  have ⟨hist, hnext⟩ := hc
  refine ⟨hist, ?_⟩
  show s.seq.callLegal .reset (authedSector s.calls)
  cases hq : s.seq <;> rw [hq] at hnext
  case setupRead => exact hnext
  case walkAuth =>
    obtain ⟨hblk, -, -⟩ := hnext
    exact ⟨hblk, nofun, nofun⟩
  case walkTell =>
    obtain ⟨-, -, hauth⟩ := hnext
    exact ⟨nofun, nofun, hauth⟩
  case walkData =>
    obtain ⟨hblk, hauth, -⟩ := hnext
    exact ⟨hblk, hauth, nofun⟩
  case walkNext | walkTerm | walkAck => exact nofun
  all_goals exact trivial

theorem step_callsOk (hs : s.TransfersOk) (h : step s = .next t) : t.CallsOk := by
  have hc := hs.callsOk
  unfold step at h
  split at h
  · cases h
    exact takeReset_callsOk hc
  split at h
  · next hidle =>
    unfold hostStep at h
    split at h
    · cases h
      exact hc
    · next hhost =>
      exact hostAct_callsOk (hs.hostKeeps _ (by rw [hhost]; exact List.mem_cons_self ..)) hc.history hidle h
  · exact seqStep_callsOk hs.unitOk hc h

end

/-- Settles O55: the unit keeps its invariant, the host's list only gets shorter, and the calls stay legal. -/
theorem stepsTouchOnlyAuthenticatedDataBlocks : Obligations.StepsTouchOnlyAuthenticatedDataBlocks := by
  intro s t hs h
  have hstep := step_effect h
  obtain ⟨hist, hnext⟩ := step_callsOk hs h
  exact ⟨hstep.keeps_unitOk hs.unitOk, fun a ha => hs.hostKeeps a (hstep.host_suffix.subset ha), hnext,
    hist.legal, hist.authenticated⟩

/-! ## No step faults (R259; log 16) -/

/-- The outcome is a next state. -/
def Completes (o : Outcome) : Prop := ∃ t, o = .next t

theorem Completes.next (t : State) : Completes (.next t) := ⟨t, rfl⟩

theorem Completes.ite {c : Prop} [Decidable c] {o o' : Outcome} (h : Completes o) (h' : Completes o') :
    Completes (if c then o else o') := by
  split
  · exact h
  · exact h'

theorem issue_completes {i : Instr} {s : State} {k : Response → State → Outcome}
    (hk : ∀ r t, Completes (k r t)) : Completes (issue i s k) := by
  obtain ⟨u, r, -, hans⟩ := exec_moves i s
  rw [issue_of_answers hans]
  exact hk _ _

/-- A primitive called inside the medium completes, whether it has been answered or not (R67). -/
theorem callReader_completes {blk : BitVec 8} {s : State} {k : Answer → State → Outcome} (hblk : blk.toNat ≤ 63)
    (hk : ∀ ans t, Completes (k ans t)) : Completes (callReader blk s k) := by
  rcases callReader_cases blk s k with ⟨hout, -⟩ | ⟨-, -, hc⟩ | ⟨ans, rest, m, -, -, hc⟩
  · omega
  · exact ⟨s, hc⟩
  · rw [hc]
    exact hk _ _

theorem authCall_completes {h : CardHandle} {blk : BitVec 8} {s : State} {k : Bool → State → Outcome}
    (hblk : blk.toNat ≤ 63) (hk : ∀ ok t, Completes (k ok t)) : Completes (authCall h blk s k) :=
  callReader_completes hblk fun _ _ => hk _ _

theorem readCall_completes {blk : BitVec 8} {s : State} {k : Option Block → State → Outcome}
    (hblk : blk.toNat ≤ 63) (hk : ∀ b t, Completes (k b t)) : Completes (readCall blk s k) :=
  callReader_completes hblk fun _ _ => hk _ _

theorem writeCall_completes {blk : BitVec 8} {data : Block} {s : State} {k : Bool → State → Outcome}
    (hblk : blk.toNat ≤ 63) (hk : ∀ ok t, Completes (k ok t)) : Completes (writeCall blk data s k) :=
  callReader_completes hblk fun _ _ => hk _ _

theorem onYield_completes (w : Walk) (y : Response) (t : State) : Completes (onYield w y t) :=
  .ite (.next _) (.ite (.next _) (.ite (.next _) (.ite (.next _) (.next _))))

theorem onWritten_completes (w : Walk) (blk : BitVec 8) (ok : Bool) (t : State) : Completes (onWritten w blk ok t) :=
  .ite (.next _) (.next _)

theorem walkData_completes {w : Walk} {blk : BitVec 8} {off : BitVec 17} {s : State} (hblk : blk.toNat ≤ 63) :
    Completes (seqWalkData w blk off s) := by
  unfold seqWalkData
  split
  · refine readCall_completes hblk fun b t => ?_
    cases b with
    | some b => exact .next _
    | none => exact .next _
  · exact writeCall_completes hblk (onWritten_completes w blk)
  · exact writeCall_completes hblk (onWritten_completes w blk)

theorem seqStep_completes {s : State} (hc : s.CallsOk) : Completes (seqStep s) := by
  have hnext := hc.next
  unfold seqStep
  split
  next => exact .next s
  next => exact authCall_completes (by decide) fun _ _ => .ite (.next _) (.next _)
  next =>
    refine readCall_completes (by decide) fun b t => ?_
    cases b with
    | some b => exact .next _
    | none => exact .next _
  next => exact issue_completes fun _ _ => .ite (.next _) (.next _)
  next => exact issue_completes fun _ _ => .ite (.next _) (.next _)
  next => exact issue_completes fun _ _ => .next _
  next => exact issue_completes fun _ _ => .next _
  next => exact issue_completes fun _ _ => .next _
  next w _ => exact issue_completes fun _ _ => onYield_completes w _ _
  next hq =>
    rw [hq] at hnext
    obtain ⟨⟨-, hin, -⟩, -⟩ := hnext
    exact authCall_completes hin fun _ _ => .next _
  next => exact issue_completes fun _ _ => .ite (.next _) (.next _)
  next hq =>
    rw [hq] at hnext
    obtain ⟨⟨-, hin, -⟩, -⟩ := hnext
    exact walkData_completes hin
  next => exact issue_completes fun _ _ => .ite (.next _) (.next _)
  next => exact issue_completes fun _ _ => .next _
  next => exact issue_completes fun _ _ => .next _
  next => exact issue_completes fun _ _ => .next _

theorem beginWrite_completes_or_refuses (h : CardHandle) (p : List Byte) (s : State) :
    Completes (beginWrite h p s) ∨ beginWrite h p s = .refused .payloadTooLong := by
  rcases Nat.lt_or_ge 65535 p.length with hlong | hfits
  · exact .inr (beginWrite_refuses h p s hlong)
  · exact .inl ⟨_, beginWrite_encodes h p s hfits⟩

theorem hostAct_completes_or_refuses {a : HostAct} (ha : a.keepsToYields = true) (rest : List HostAct) (s : State) :
    Completes (hostAct a rest s) ∨ hostAct a rest s = .refused .payloadTooLong := by
  cases a with
  | command cw blk =>
    refine .inl ?_
    rw [hostAct, runCommand]
    split
    · next i _ =>
      obtain ⟨u, r, -, hans⟩ := exec_moves i (s.served rest)
      exact ⟨_, hans⟩
    · exact .next _
  | reset | readFrame | formatCard | readUri | format => exact .inl (.next _)
  | auth | read | write => cases ha
  | writeFrame h p => exact beginWrite_completes_or_refuses h p _
  | writeUri h text =>
    cases hcodec : Config.encodeUriRecord text with
    | some p =>
      rw [hostAct, beginWriteUri_accepted h text p _ hcodec]
      exact beginWrite_completes_or_refuses h p _
    | none =>
      rw [hostAct, beginWriteUri_rejected h text _ hcodec]
      exact .inl (.next _)

/-- Settles O56: the calls of the sequencer stay inside the medium, and the host makes none. -/
theorem stepsNeverFault : Obligations.StepsNeverFault := by
  intro s hs
  unfold step
  split
  · exact .inl ⟨_, rfl⟩
  split
  · unfold hostStep
    split
    · exact .inl ⟨_, rfl⟩
    · next a rest hhost =>
      exact hostAct_completes_or_refuses (hs.hostKeeps a (by rw [hhost]; exact List.mem_cons_self ..)) rest s
  · exact .inl (seqStep_completes hs.callsOk)

end Sys2Proof.Machine
end

section
/-! SUPPORT. How far a write or a format has come (44_walker_sequences.md R185 to R187, 60_exceptions.md R212, R213,
R223): each step of the walk keeps the account of the medium, of what is reported, and of what a refused write leaves. -/

namespace Sys2Proof.Machine

/-! ## Data blocks filled in walk order (R52, R159) -/

theorem dataBlockIndex_inj {j k : Nat} (h : dataBlockIndex j = dataBlockIndex k) : j = k := by
  unfold dataBlockIndex at h
  omega

section
variable {m0 m : Memory} {job : Job} {n : Nat}

/-- A block write outside the filled blocks leaves them filled. -/
theorem BlocksFilled.new_after_write (hf : BlocksFilled m0 m job n fun _ => False) (hwf : Memory.wf m = true)
    (hin : dataBlockIndex n < 64) (b : Block) (k : Nat) (hk : k < n) :
    readBlock (writeBlock m (dataBlockIndex n) b) (dataBlockIndex k) = job.content k := by
  have hne : dataBlockIndex k ≠ dataBlockIndex n := fun h => Nat.ne_of_lt hk (dataBlockIndex_inj h)
  rw [readBlock_writeBlock_other m _ _ b hwf hin hne, hf.new k hk]

/-- The next data block is filled (R185, R186). -/
theorem BlocksFilled.fillNext (hf : BlocksFilled m0 m job n fun _ => False) (hwf : Memory.wf m = true)
    (hin : dataBlockIndex n < 64) :
    BlocksFilled m0 (writeBlock m (dataBlockIndex n) (job.content n)) job (n + 1) fun _ => False where
  new k hk := by
    rcases Nat.lt_or_eq_of_le (Nat.le_of_lt_succ hk) with hlt | rfl
    · exact hf.new_after_write hwf hin _ k hlt
    · exact readBlock_writeBlock_same m _ _ hwf hin
  old a ha hl := by
    rw [memByte_writeBlock_outside m _ _ hwf hin a (ha n (Nat.lt_succ_self n))]
    exact hf.old a (fun k hk => ha k (Nat.lt_succ_of_lt hk)) hl

/-- A refused write leaves its own block loose and no other (R56). -/
theorem BlocksFilled.refuseNext (hf : BlocksFilled m0 m job n fun _ => False) (hwf : Memory.wf m = true)
    (hin : dataBlockIndex n < 64) (left : Block) :
    BlocksFilled m0 (writeBlock m (dataBlockIndex n) left) job n fun b => b = dataBlockIndex n where
  new := hf.new_after_write hwf hin left
  old a ha hl := by
    rw [memByte_writeBlock_outside m _ _ hwf hin a hl]
    exact hf.old a ha id

end

/-! ## The job and its walk -/

theorem Job.success_of_writes {job : Job} (h : job.writes = true) : job.success = .done := by
  cases job with
  | read => cases h
  | write | format => rfl

/-- A job that writes has the mode WRITE or FORMAT (R25). -/
theorem Job.mode_ne_read {job : Job} (h : job.writes = true) : job.mode ≠ 0 := by
  cases job with
  | read => cases h
  | write | format => rw [Job.mode]; decide

theorem Job.write_of_mode {job : Job} (h : job.writes = true) (hm : job.mode ≠ 2) : ∃ chunks, job = .write chunks := by
  cases job with
  | read => cases h
  | write chunks => exact ⟨chunks, rfl⟩
  | format => exact absurd rfl hm

theorem Job.format_of_mode {job : Job} (hm : job.mode = 2) : job = .format := by
  cases job with
  | read | write => cases hm
  | format => rfl

/-- What stays of a walk as long as its mode, its budget and its activity do. -/
theorem InWalkOf.of_eq {job : Job} {u u' : UnitState} (h : InWalkOf job u) (hp : u'.phase.active = true)
    (hm : u'.mode = u.mode) (hl : u'.limit = u.limit) : InWalkOf job u' :=
  ⟨hp, hm.trans h.mode, fun chunks hj => by rw [hl]; exact h.limit chunks hj⟩

/-- The block that a pending transfer names is the next data block, and lies on the medium (R159, R258). -/
theorem UnitInv.pending_block {last : BitVec 8} {u : UnitState} (h : UnitInv last u) (hlast : last.toNat ≤ 63)
    (hpend : u.pend = true) : u.bidx.toNat = dataBlockIndex (u.bcnt.toNat / 16) ∧ u.bidx.toNat < 64 := by
  obtain ⟨hp, hl, ht, -, -⟩ := h.pendLegal hpend
  exact ⟨h.cursor_eq_dataBlockIndex hp ht, by omega⟩

/-- With nothing on the host's list and no reset asserted, a step is one of the sequencer (R181). -/
theorem step_alone {s : State} (hrst : s.rst = false) (hhost : s.host = []) : step s = seqStep s := by
  by_cases hidle : s.seq = .idle
  · rw [waitsForTheFirstCommand s hrst hidle hhost, seqStep, hidle]
  · exact step_runsSeq s hrst hidle

/-! ## The walk, step by step -/

section
variable {m0 : Memory} {job : Job} {s t : State} {w : Walk}

/-- The blocks filled when the unit counts `n` bytes. -/
abbrev State.Filled (s : State) (m0 : Memory) (job : Job) (n : Nat) : Prop :=
  BlocksFilled m0 s.medium job n fun _ => False

theorem write_walkInit {nblk : BitVec 13} (hjob : w.job = job)
    (hchunks : ∀ chunks, job = .write chunks → nblk.toNat = chunks.length) (hf : s.Filled m0 job 0)
    (h : seqWalkInit w nblk s = .next t) : WriteProgress m0 job t := by
  rw [seqWalkInit, issue_of_answers (winit_answers _ nblk s w.job.mode_ne_three), hjob] at h
  cases h
  refine ⟨hjob, ⟨rfl, rfl, fun chunks hj => ?_⟩, ?_⟩
  · show (UnitState.startWalk job.mode nblk).limit.toNat = _
    rw [UnitState.startWalk_limit, hchunks chunks hj]
  · show s.Filled m0 job ((UnitState.startWalk job.mode nblk).bcnt.toNat / 16)
    rw [UnitState.startWalk_bcnt]
    exact hf

/-- A write whose budget is reached has written every chunk (R28, R185). -/
theorem Job.complete_of_budget {last : BitVec 8} {u : UnitState} (hu : UnitInv last u) (hwrites : job.writes = true)
    (hwalk : InWalkOf job u) (hm : u.mode ≠ 2) (hb : u.limit.toNat ≤ u.bcnt.toNat) :
    job.complete last u.endWalk := by
  obtain ⟨chunks, rfl⟩ := Job.write_of_mode hwrites (hwalk.mode ▸ hm)
  have hle := hu.withinBudget hm
  have hlimit := hwalk.limit chunks rfl
  show u.bcnt.toNat = 16 * chunks.length
  omega

/-- A format behind `LAST_BLOCK` has filled every data block (R186). -/
theorem Job.complete_of_end {last : BitVec 8} {u : UnitState} (hu : UnitInv last u) (hwalk : InWalkOf job u)
    (hm : u.mode = 2) (hl : last.toNat < u.bidx.toNat) : job.complete last u.endWalk := by
  obtain rfl := Job.format_of_mode (hwalk.mode ▸ hm)
  have hle := (hu.cursor_of_active hwalk.active).2
  show u.bidx.toNat = last.toNat + 1
  omega

theorem write_walkNext (hs : s.UnitOk) (hwrites : job.writes = true) (hjob : w.job = job)
    (hwalk : InWalkOf job s.unit) (hf : s.Filled m0 job (s.unit.bcnt.toNat / 16))
    (h : seqWalkNext w s = .next t) : WriteProgress m0 job t := by
  have hsuccess : w.job.success = .done := by rw [hjob, Job.success_of_writes hwrites]
  obtain ⟨u, r, hmove, hk⟩ := issue_inv h
  cases hmove with
  | pure _ _ hi => cases hi
  | illegal _ hi => cases hi
  | outOfOrder _ _ hout =>
    have hp := (s.unit.phase.active_eq_false_iff).2 hout
    exact absurd (hp.symm.trans hwalk.active) (by decide)
  | budgetReached _ hm hb =>
    rw [onYield_done, hsuccess] at hk
    cases hk
    exact ⟨rfl, hf, Job.complete_of_budget hs.unit hwrites hwalk hm hb⟩
  | formatEnded _ hm hl =>
    rw [onYield_done, hsuccess] at hk
    cases hk
    exact ⟨rfl, hf, Job.complete_of_end hs.unit hwalk hm hl⟩
  | mediumEnded e hp _ hl he =>
    rw [onYield_failed _ _ _ _ (Status.code_ne_zero_of_end he)] at hk
    cases hk
    rcases he with ⟨hm, -⟩ | ⟨hm, rfl⟩
    · exact absurd (hwalk.mode.symm.trans hm) (Job.mode_ne_read hwrites)
    · have hwrite := Job.write_of_mode hwrites (by rw [← hwalk.mode, hm]; decide)
      have hle := (hs.unit.cursor_of_active hp).2
      exact ⟨⟨rfl, rfl, rfl⟩, .inr (.inl ⟨rfl, hwrite, Nat.le_antisymm hle hl, hf⟩)⟩
  | asksAuth hp =>
    rw [onYield_auth] at hk
    cases hk
    exact ⟨hjob, hwalk.of_eq hwalk.active rfl rfl, ⟨hp, rfl, rfl⟩, hf⟩
  | skipsTrailer =>
    rw [onYield_skip] at hk
    cases hk
    exact ⟨hjob, hwalk.of_eq rfl rfl rfl, hf⟩
  | asksTransfer hp =>
    rw [onYield_data] at hk
    cases hk
    exact ⟨hjob, hwalk.of_eq hwalk.active rfl rfl, ⟨hp, rfl⟩, rfl, rfl, hf⟩

theorem write_walkAuth {blk : BitVec 8} (hquiet : quietReader s.reader) (hjob : w.job = job)
    (hwalk : InWalkOf job s.unit) (hawait : AwaitsAuth s.unit blk)
    (hf : s.Filled m0 job (s.unit.bcnt.toNat / 16)) (hprog : WriteProgress m0 job s)
    (h : seqWalkAuth w blk s = .next t) : WriteProgress m0 job t := by
  rcases authCall_inv h with rfl | ⟨ans, rest, m, ha, hk⟩
  · exact hprog
  obtain ⟨rfl, -⟩ := takeAnswer_quiet _ _ hquiet _ _ _ ha.taken
  cases hk
  exact ⟨hjob, hwalk, hawait, hf⟩

theorem write_walkTell {blk : BitVec 8} {ok : Bool} (hjob : w.job = job) (hwalk : InWalkOf job s.unit)
    (hawait : AwaitsAuth s.unit blk) (hf : s.Filled m0 job (s.unit.bcnt.toNat / 16))
    (h : seqWalkTell w blk ok s = .next t) : WriteProgress m0 job t := by
  obtain ⟨hp, hpend, hcursor⟩ := hawait
  cases ok with
  | true =>
    rw [seqWalkTell, issue_of_answers (wauth_true_answers s ⟨hp, hpend⟩)] at h
    cases h
    exact ⟨hjob, hwalk.of_eq rfl rfl rfl, hf⟩
  | false =>
    rw [seqWalkTell, issue_of_answers (wauth_false_answers s ⟨hp, hpend⟩)] at h
    cases h
    exact ⟨⟨rfl, rfl, hcursor⟩, .inl ⟨rfl, hf⟩⟩

theorem WriteProgress.of_walkAck (hq : t.seq = .walkAck w) (hjob : w.job = job) (hwalk : InWalkOf job t.unit)
    (hawait : AwaitsTransfer t.unit) (hf : t.Filled m0 job (t.unit.bcnt.toNat / 16 + 1)) :
    WriteProgress m0 job t := by
  unfold WriteProgress
  rw [hq]
  exact ⟨hjob, hwalk, hawait, hf⟩

theorem WriteProgress.of_walkFail (hq : t.seq = .walkFail w 2 t.unit.bidx) (hjob : w.job = job)
    (hwalk : InWalkOf job t.unit) (hawait : AwaitsTransfer t.unit) (hrefused : refusedWrite t.unit.bidx t.calls)
    (hf : BlocksFilled m0 t.medium job (t.unit.bcnt.toNat / 16) fun b => b = t.unit.bidx.toNat) :
    WriteProgress m0 job t := by
  unfold WriteProgress
  rw [hq]
  exact ⟨hjob, hwalk, hawait, rfl, rfl, hrefused, hf⟩

/-- The `MemWrite` of the content of the next data block, granted or refused (R185, R186). -/
theorem write_memWrite (hs : s.WriteOk m0 job) (hjob : w.job = job) (hwalk : InWalkOf job s.unit)
    (hawait : AwaitsTransfer s.unit) (hf : s.Filled m0 job (s.unit.bcnt.toNat / 16))
    (h : writeCall s.unit.bidx (job.content (s.unit.bcnt.toNat / 16)) s (onWritten w s.unit.bidx) = .next t) :
    WriteProgress m0 job t := by
  obtain ⟨hblk, hin⟩ := hs.unitOk.unit.pending_block hs.unitOk.legal.2 hawait.pend
  rw [hblk] at hin
  rcases writeCall_inv h with rfl | ⟨ans, rest, m, ha, hk⟩
  · exact hs.progress
  obtain ⟨rfl, -⟩ := takeAnswer_quiet _ _ hs.exclusive _ _ _ ha.taken
  cases ans with
  | granted =>
    cases hk
    refine .of_walkAck rfl hjob hwalk hawait ?_
    rw [State.Filled, State.goto_medium, State.afterWrite_medium, hblk]
    exact hf.fillNext hs.canonical hin
  | denied left =>
    cases hk
    refine .of_walkFail rfl hjob hwalk hawait ⟨_, rfl⟩ ?_
    rw [State.goto_medium, State.afterWrite_medium, State.goto_unit, State.afterWrite_unit, hblk]
    exact hf.refuseNext hs.canonical hin left

theorem write_walkData (hs : s.WriteOk m0 job) (hjob : w.job = job) (hwalk : InWalkOf job s.unit)
    (hawait : AwaitsTransfer s.unit) (hf : s.Filled m0 job (s.unit.bcnt.toNat / 16))
    (h : seqWalkData w s.unit.bidx s.unit.bcnt s = .next t) : WriteProgress m0 job t := by
  refine write_memWrite hs hjob hwalk hawait hf ?_
  rw [seqWalkData, hjob] at h
  cases hj : job with
  | read start buf uri =>
    have hwrites := hs.writing
    rw [hj] at hwrites
    cases hwrites
  | write chunks => rw [hj] at h; exact h
  | format => rw [hj] at h; exact h

theorem write_walkAck (hs : s.UnitOk) (hjob : w.job = job) (hwalk : InWalkOf job s.unit)
    (hawait : AwaitsTransfer s.unit) (hf : s.Filled m0 job (s.unit.bcnt.toNat / 16 + 1))
    (h : seqWalkAck w s = .next t) : WriteProgress m0 job t := by
  have hadd := hs.unit.counter_add_toNat hs.legal.2 hawait.pend
  rw [seqWalkAck, issue_of_answers (wack_answers s ⟨hawait.phase, hawait.pend⟩)] at h
  cases h
  refine ⟨hjob, hwalk.of_eq hwalk.active rfl rfl, ?_⟩
  show BlocksFilled m0 s.medium job ((s.unit.bcnt + 16).toNat / 16) _
  rw [hadd, Nat.add_div_right _ (by decide)]
  exact hf

theorem write_walkFail {blk : BitVec 8} (hwalk : InWalkOf job s.unit) (hblk : blk = s.unit.bidx)
    (hrefused : refusedWrite blk s.calls)
    (hf : BlocksFilled m0 s.medium job (s.unit.bcnt.toNat / 16) fun b => b = s.unit.bidx.toNat)
    (h : seqWalkFail 2 blk s = .next t) : WriteProgress m0 job t := by
  subst hblk
  rw [seqWalkFail, issue_of_answers (wfail_answers 2 s rfl hwalk.active)] at h
  cases h
  exact ⟨⟨rfl, rfl, rfl⟩, .inr (.inr ⟨rfl, hrefused, hf⟩)⟩

theorem seqStep_writeProgress (hs : s.WriteOk m0 job) (h : seqStep s = .next t) : WriteProgress m0 job t := by
  have hprog := hs.progress
  have hquiet := hs.exclusive
  unfold seqStep at h
  cases hq : s.seq <;> rw [hq] at h <;> unfold WriteProgress at hprog <;> rw [hq] at hprog
  case idle => cases h; exact hs.progress
  case walkInit =>
    obtain ⟨hjob, hchunks, hf⟩ := hprog
    exact write_walkInit hjob hchunks hf h
  case walkNext =>
    obtain ⟨hjob, hwalk, hf⟩ := hprog
    exact write_walkNext hs.unitOk hs.writing hjob hwalk hf h
  case walkAuth =>
    obtain ⟨hjob, hwalk, hawait, hf⟩ := hprog
    exact write_walkAuth hquiet hjob hwalk hawait hf hs.progress h
  case walkTell =>
    obtain ⟨hjob, hwalk, hawait, hf⟩ := hprog
    exact write_walkTell hjob hwalk hawait hf h
  case walkData =>
    obtain ⟨hjob, hwalk, hawait, rfl, rfl, hf⟩ := hprog
    exact write_walkData hs hjob hwalk hawait hf h
  case walkAck =>
    obtain ⟨hjob, hwalk, hawait, hf⟩ := hprog
    exact write_walkAck hs.unitOk hjob hwalk hawait hf h
  case walkFail =>
    obtain ⟨-, hwalk, -, rfl, hblk, hrefused, hf⟩ := hprog
    exact write_walkFail hwalk hblk hrefused hf h
  all_goals exact hprog.elim

end

/-- Settles O59: what every step keeps, and the account of the walk step by step. -/
theorem stepsKeepTheWriteProgress : Obligations.StepsKeepTheWriteProgress := by
  intro m0 job s t hs h
  have hstep := step_effect h
  rw [step_alone hs.noReset hs.nothingElse] at h
  exact ⟨hstep.keeps_unitOk hs.unitOk, hs.writing, hstep.keeps_canonical hs.canonical, hstep.keeps_rst hs.noReset,
    hstep.keeps_alone hs.nothingElse, hstep.keeps_quiet hs.exclusive, seqStep_writeProgress hs h⟩

end Sys2Proof.Machine
end

section
/-! SUPPORT. How far a read has come (44_walker_sequences.md R183, R184, R194, R216): each step of the walk keeps the
account of the buffer, and of what the operation returns or reports. -/

namespace Sys2Proof.Machine

/-! ## The buffer (R183) -/

theorem dataBytes_succ (m : Memory) (n : Nat) :
    dataBytes m (n + 1) = dataBytes m n ++ blockBytes (readBlock m (dataBlockIndex n)) := by
  rw [dataBytes, List.range_succ, List.flatMap_append, List.flatMap_singleton]
  rfl

theorem dataBytes_length (m : Memory) (n : Nat) : (dataBytes m n).length = 16 * n := by
  induction n with
  | zero => rfl
  | succ n ih => rw [dataBytes_succ, List.length_append, ih, blockBytes_length, Nat.mul_succ]

theorem ReadBuffer.start (m : Memory) : ReadBuffer m 0 [] := ⟨rfl, nofun⟩

/-- A block without terminator is appended whole (R183). -/
theorem ReadBuffer.append {m : Memory} {n : Nat} {buf : List Byte} (h : ReadBuffer m n buf)
    (hclean : ∀ v ∈ blockBytes (readBlock m (dataBlockIndex n)), v ≠ Config.tlvTerminator) :
    ReadBuffer m (n + 1) (buf ++ blockBytes (readBlock m (dataBlockIndex n))) where
  bytes := by rw [h.bytes, dataBytes_succ]
  clean v hv := (List.mem_append.1 hv).elim (h.clean v) (hclean v)

/-! ## The search for the terminator (R124) -/

theorem found_of_terminator (v0 : BitVec 32) (t : Option Nat) :
    (⟨0, v0, packTerminator t⟩ : Response).found = t.isSome := by
  simp only [Response.found, packTerminator, BitVec.getLsbD_append]
  simp

theorem take_of_terminator (v0 : BitVec 32) (t : Option Nat) :
    (⟨0, v0, packTerminator t⟩ : Response).take.toNat = takeCount t := by
  have hle := takeCount_le t
  have hbit : t.isSome.toNat ≤ 1 := Bool.toNat_le _
  rw [Response.take, field_toNat, packTerminator_toNat]
  omega

/-- Either nothing is found and every byte is kept, or what is kept ends as `KeptOf` says (R183, R249). -/
theorem terminator_cases (b : Block) :
    (scanTerminator (blockBytes b) 0 = none ∧ ∀ v ∈ blockBytes b, v ≠ Config.tlvTerminator) ∨
      ∃ t, scanTerminator (blockBytes b) 0 = some t ∧ KeptOf b ((blockBytes b).take (takeCount (some t))) := by
  have byte (i : Nat) (hi : i < 16) := blockBytes_getD b i hi
  rcases scanTerminator_cases (blockBytes b) 0 with ⟨t, ht, he, hbefore, hscan⟩ | ⟨hclean, hscan⟩
  · rw [blockBytes_length] at ht
    rw [Nat.zero_add] at hscan
    exact .inr ⟨t, hscan, t, ht, (byte t ht).symm.trans he,
      fun i hi => byte i (hi.trans ht) ▸ hbefore i hi, rfl⟩
  · refine .inl ⟨hscan, fun v hv => ?_⟩
    obtain ⟨i, hi, rfl⟩ := List.getElem_of_mem hv
    rw [← List.getD_eq_getElem _ 0 hi]
    exact hclean i hi

/-- With nothing found the whole block is kept. -/
theorem take_whole_block (b : Block) : (blockBytes b).take (takeCount none) = blockBytes b :=
  List.take_of_length_le (blockBytes_length b).le

/-! ## The result (R184, R194) -/

theorem readResult_of_success (start : Nat) (buf : List Byte) (uri : Bool) :
    ReadResult uri (buf.drop start) (Job.read start buf uri).success := by
  cases uri with
  | false => rfl
  | true =>
    show (∃ record, _ ∧ decodeUri (buf.drop start) = _) ∨ (_ ∧ decodeUri (buf.drop start) = _)
    cases hcodec : Config.decodeMessage (buf.drop start) with
    | some record => exact .inl ⟨record, rfl, by rw [decodeUri, hcodec]⟩
    | none => exact .inr ⟨rfl, by rw [decodeUri, hcodec]; rfl⟩

/-! ## The walk, step by step -/

section
variable {start : Nat} {uri : Bool} {s t : State} {w : Walk} {buf : List Byte}

/-- The buffer of the walk after `n` data blocks. -/
abbrev BufferOf (w : Walk) (start : Nat) (uri : Bool) (m : Memory) (n : Nat) : Prop :=
  ∃ buf, w.job = .read start buf uri ∧ ReadBuffer m n buf

theorem InReadWalk.of_eq {u u' : UnitState} (h : InReadWalk u) (hp : u'.phase.active = true) (hm : u'.mode = u.mode) :
    InReadWalk u' := ⟨hp, hm.trans h.mode⟩

/-- The account holds after the step, and the medium is as before it: a read calls `Auth` and `MemRead` only (R57). -/
abbrev ReadAdvances (start : Nat) (uri : Bool) (s t : State) : Prop :=
  ReadProgress start uri t ∧ t.medium = s.medium

theorem read_walkInit {nblk : BitVec 13} (hjob : w.job = .read start [] uri)
    (h : seqWalkInit w nblk s = .next t) : ReadAdvances start uri s t := by
  rw [seqWalkInit, issue_of_answers (winit_answers _ nblk s w.job.mode_ne_three), hjob] at h
  cases h
  refine ⟨⟨⟨[], hjob, ?_⟩, rfl, rfl⟩, rfl⟩
  show ReadBuffer s.medium ((UnitState.startWalk _ nblk).bcnt.toNat / 16) []
  rw [UnitState.startWalk_bcnt]
  exact .start s.medium

theorem read_walkNext (hs : s.UnitOk) (hbuf : BufferOf w start uri s.medium (s.unit.bcnt.toNat / 16))
    (hwalk : InReadWalk s.unit) (h : seqWalkNext w s = .next t) : ReadAdvances start uri s t := by
  obtain ⟨buf, hjob, hread⟩ := hbuf
  have hmode : s.unit.mode = 0 := hwalk.mode
  obtain ⟨u, r, hmove, hk⟩ := issue_inv h
  cases hmove with
  | pure _ _ hi => cases hi
  | illegal _ hi => cases hi
  | outOfOrder _ _ hout =>
    have hp := (s.unit.phase.active_eq_false_iff).2 hout
    exact absurd (hp.symm.trans hwalk.active) (by decide)
  | budgetReached _ _ hb =>
    rw [onYield_done, hjob] at hk
    cases hk
    exact ⟨.inl ⟨buf, rfl, readResult_of_success start buf uri, .inl ⟨hread, hb⟩⟩, rfl⟩
  | formatEnded _ hm => exact absurd (hmode.symm.trans hm) (by decide)
  | mediumEnded e hp _ hl he =>
    rw [onYield_failed _ _ _ _ (Status.code_ne_zero_of_end he)] at hk
    cases hk
    rcases he with ⟨-, rfl⟩ | ⟨hm, -⟩
    · have hle := (hs.unit.cursor_of_active hp).2
      exact ⟨.inr ⟨_, _, rfl, ⟨rfl, rfl, rfl⟩, .inr (.inr ⟨rfl, Nat.le_antisymm hle hl⟩)⟩, rfl⟩
    · exact absurd (hmode.symm.trans hm) (by decide)
  | asksAuth hp =>
    rw [onYield_auth] at hk
    cases hk
    exact ⟨⟨⟨buf, hjob, hread⟩, hwalk.of_eq hwalk.active rfl, hp, rfl, rfl⟩, rfl⟩
  | skipsTrailer =>
    rw [onYield_skip] at hk
    cases hk
    exact ⟨⟨⟨buf, hjob, hread⟩, hwalk.of_eq rfl rfl⟩, rfl⟩
  | asksTransfer hp =>
    rw [onYield_data] at hk
    cases hk
    have hwhole := hs.unit.wholeBlocks.1
    have hlength : buf.length = s.unit.bcnt.toNat := by
      rw [hread.bytes, dataBytes_length]
      omega
    exact ⟨⟨⟨buf, hjob, hread, hlength⟩, hwalk.of_eq hwalk.active rfl, ⟨hp, rfl⟩, rfl, rfl⟩, rfl⟩

theorem read_walkAuth {blk : BitVec 8} (hquiet : quietReader s.reader)
    (hbuf : BufferOf w start uri s.medium (s.unit.bcnt.toNat / 16)) (hwalk : InReadWalk s.unit)
    (hawait : AwaitsAuth s.unit blk) (hprog : ReadProgress start uri s) (h : seqWalkAuth w blk s = .next t) :
    ReadAdvances start uri s t := by
  rcases authCall_inv h with rfl | ⟨ans, rest, m, ha, hk⟩
  · exact ⟨hprog, rfl⟩
  obtain ⟨rfl, -⟩ := takeAnswer_quiet _ _ hquiet _ _ _ ha.taken
  cases hk
  exact ⟨⟨hbuf, hwalk, hawait⟩, rfl⟩

theorem read_walkTell {blk : BitVec 8} {ok : Bool} (hbuf : BufferOf w start uri s.medium (s.unit.bcnt.toNat / 16))
    (hwalk : InReadWalk s.unit) (hawait : AwaitsAuth s.unit blk) (h : seqWalkTell w blk ok s = .next t) :
    ReadAdvances start uri s t := by
  obtain ⟨hp, hpend, hcursor⟩ := hawait
  cases ok with
  | true =>
    rw [seqWalkTell, issue_of_answers (wauth_true_answers s ⟨hp, hpend⟩)] at h
    cases h
    exact ⟨⟨hbuf, hwalk.of_eq rfl rfl⟩, rfl⟩
  | false =>
    rw [seqWalkTell, issue_of_answers (wauth_false_answers s ⟨hp, hpend⟩)] at h
    cases h
    exact ⟨.inr ⟨1, blk, rfl, ⟨rfl, rfl, hcursor⟩, .inl rfl⟩, rfl⟩

theorem read_walkData (hs : s.UnitOk) (hquiet : quietReader s.reader)
    (hbuf : BufferOf w start uri s.medium (s.unit.bcnt.toNat / 16)) (hwalk : InReadWalk s.unit)
    (hawait : AwaitsTransfer s.unit) (hprog : ReadProgress start uri s)
    (h : seqWalkData w s.unit.bidx s.unit.bcnt s = .next t) : ReadAdvances start uri s t := by
  obtain ⟨buf, hjob, hread⟩ := hbuf
  have hblk := (hs.unit.pending_block hs.legal.2 hawait.pend).1
  rw [seqWalkData, hjob] at h
  rcases readCall_inv h with rfl | ⟨ans, rest, m, ha, hk⟩
  · exact ⟨hprog, rfl⟩
  obtain ⟨rfl, -⟩ := takeAnswer_quiet _ _ hquiet _ _ _ ha.taken
  cases ans with
  | granted =>
    cases hk
    exact ⟨⟨⟨buf, hjob, hread⟩, hwalk, hawait, congrArg (readBlock s.medium) hblk⟩, rfl⟩
  | denied left =>
    cases hk
    exact ⟨⟨⟨buf, hjob⟩, hwalk, hawait, rfl, rfl⟩, rfl⟩

theorem read_walkTerm {b : Block} (hbuf : BufferOf w start uri s.medium (s.unit.bcnt.toNat / 16))
    (hwalk : InReadWalk s.unit) (hawait : AwaitsTransfer s.unit)
    (hb : b = readBlock s.medium (dataBlockIndex (s.unit.bcnt.toNat / 16)))
    (h : seqWalkTerm w b s = .next t) : ReadAdvances start uri s t := by
  obtain ⟨buf, hjob, hread⟩ := hbuf
  rcases terminator_cases b with ⟨hscan, hclean⟩ | ⟨o, hscan, hkept⟩ <;>
    rw [seqWalkTerm, issue_of_answers (fterm_answers b s _ hscan), hjob] at h <;>
    simp only [found_of_terminator, take_of_terminator, Job.append] at h
  · rw [take_whole_block] at h
    cases h
    subst hb
    exact ⟨⟨⟨_, rfl, hread.append hclean⟩, hwalk, hawait⟩, rfl⟩
  · cases h
    subst hb
    exact ⟨⟨⟨_, rfl, buf, _, hread, hkept, rfl⟩, hwalk⟩, rfl⟩

theorem read_walkAck (hs : s.UnitOk) (hbuf : BufferOf w start uri s.medium (s.unit.bcnt.toNat / 16 + 1))
    (hwalk : InReadWalk s.unit) (hawait : AwaitsTransfer s.unit) (h : seqWalkAck w s = .next t) :
    ReadAdvances start uri s t := by
  have hadd := hs.unit.counter_add_toNat hs.legal.2 hawait.pend
  rw [seqWalkAck, issue_of_answers (wack_answers s ⟨hawait.phase, hawait.pend⟩)] at h
  cases h
  refine ⟨⟨?_, hwalk.of_eq hwalk.active rfl⟩, rfl⟩
  show BufferOf w start uri s.medium ((s.unit.bcnt + 16).toNat / 16)
  rw [hadd, Nat.add_div_right _ (by decide)]
  exact hbuf

theorem read_walkStop (hjob : w.job = .read start buf uri)
    (hterm : TerminatedBuffer s.medium (s.unit.bcnt.toNat / 16) buf) (hwalk : InReadWalk s.unit)
    (h : seqWalkStop w s = .next t) : ReadAdvances start uri s t := by
  rw [seqWalkStop, issue_of_answers (wstop_answers s hwalk.active), hjob] at h
  cases h
  exact ⟨.inl ⟨buf, rfl, readResult_of_success start buf uri, .inr hterm⟩, rfl⟩

theorem read_walkFail {blk : BitVec 8} (hwalk : InReadWalk s.unit) (hblk : blk = s.unit.bidx)
    (h : seqWalkFail 2 blk s = .next t) : ReadAdvances start uri s t := by
  rw [seqWalkFail, issue_of_answers (wfail_answers 2 s rfl hwalk.active)] at h
  cases h
  exact ⟨.inr ⟨2, blk, rfl, ⟨rfl, rfl, hblk⟩, .inr (.inl rfl)⟩, rfl⟩

theorem seqStep_readAdvances {m0 : Memory} (hs : s.ReadOk m0 start uri) (h : seqStep s = .next t) :
    ReadAdvances start uri s t := by
  have hprog := hs.progress
  have hquiet := hs.exclusive
  unfold seqStep at h
  cases hq : s.seq <;> rw [hq] at h <;> unfold ReadProgress at hprog <;> rw [hq] at hprog
  case idle => cases h; exact ⟨hs.progress, rfl⟩
  case walkInit => exact read_walkInit hprog h
  case walkNext =>
    obtain ⟨hbuf, hwalk⟩ := hprog
    exact read_walkNext hs.unitOk hbuf hwalk h
  case walkAuth =>
    obtain ⟨hbuf, hwalk, hawait⟩ := hprog
    exact read_walkAuth hquiet hbuf hwalk hawait hs.progress h
  case walkTell =>
    obtain ⟨hbuf, hwalk, hawait⟩ := hprog
    exact read_walkTell hbuf hwalk hawait h
  case walkData =>
    obtain ⟨⟨buf, hjob, hread, -⟩, hwalk, hawait, rfl, rfl⟩ := hprog
    exact read_walkData hs.unitOk hquiet ⟨buf, hjob, hread⟩ hwalk hawait hs.progress h
  case walkTerm =>
    obtain ⟨hbuf, hwalk, hawait, hb⟩ := hprog
    exact read_walkTerm hbuf hwalk hawait hb h
  case walkAck =>
    obtain ⟨hbuf, hwalk, hawait⟩ := hprog
    exact read_walkAck hs.unitOk hbuf hwalk hawait h
  case walkStop =>
    obtain ⟨⟨buf, hjob, hterm⟩, hwalk⟩ := hprog
    exact read_walkStop hjob hterm hwalk h
  case walkFail =>
    obtain ⟨-, hwalk, -, rfl, hblk⟩ := hprog
    exact read_walkFail hwalk hblk h
  all_goals exact hprog.elim

end

/-- Settles O60: what every step keeps, and the account of the walk step by step. -/
theorem stepsKeepTheReadProgress : Obligations.StepsKeepTheReadProgress := by
  intro m0 start uri s t hs h
  have hstep := step_effect h
  rw [step_alone hs.noReset hs.nothingElse] at h
  obtain ⟨hprog, hmedium⟩ := seqStep_readAdvances hs h
  exact ⟨hmedium.trans hs.untouched, hstep.keeps_unitOk hs.unitOk, hstep.keeps_rst hs.noReset,
    hstep.keeps_alone hs.nothingElse, hstep.keeps_quiet hs.exclusive, hprog⟩

end Sys2Proof.Machine
end
